-- ==== Sys2Proof/Word.lean ====
section
/-! DEFINITION. The word type of the part's line frames, and the names of the things commands speak of. -/

namespace Sys2Proof

/-- One byte of a line frame (spec 12.1). -/
abbrev Byte := BitVec 8

/-- The four agents of the service line, in the order of R103's round robin (00_scope 5.6). -/
inductive Agent where
  | pc1 | pc2 | ad | rt
  deriving DecidableEq, Repr

/-- The three lamps of the lamp column (R207). -/
inductive Lamp where
  | brk | roving | doff
  deriving DecidableEq, Repr

end Sys2Proof
end

