-- ==== Sys2Proof/Syntax.lean ====
section
/-! DEFINITION. The commands of the part: one constructor per row of spec/opcode_table.json (log entry 1).
A frame that arrives is given as the bytes that follow its start delimiter (`bytes`), or as all the bytes heard between
the rise and the fall of the service line's carrier (`heard`). -/

namespace Sys2Proof

/-- The commands. A delivered agent frame and a management frame stand in State's receive queues, so their rows carry
no operand. -/
inductive Instr where
  /-- RST_N ends power-on reset, carrier detect standing at `carrier` (R211, R108). -/
  | powerOnReset (carrier : Bool)
  | survey (bytes : List Byte)
  | driveReport (bytes : List Byte)
  | sensorReply (bytes : List Byte)
  | frameLinkFrameDiscarded (bytes : List Byte)
  | downLinkFrameEnd
  | carrierDetectRise
  | carrierDetectFall (heard : List Byte)
  /-- The quiet time of the service line has reached `quietMs` milliseconds (R95). -/
  | gapPartElapsed (quietMs : Nat)
  | serviceFrameEnd
  | agentSilenceExpiry (agent : Agent)
  | agentStatus
  | jobAccept
  | jobDecline
  | jobResult
  | parked
  | doffProgress
  | doffDone
  | doffFault
  | bayAccept
  | bayDone
  | bayRefused
  | millLinkFrameReceived (bytes : List Byte)
  | millLinkFrameEnd
  | subSecondStep
  | secondEvent
  /-- The deadline held by job record `record` expires (R78, R82). -/
  | acceptDeadlineExpiry (record : Nat)
  | resultDeadlineExpiry (record : Nat)
  | verifyDeadlineExpiry (record : Nat)
  /-- The timer of creel bay `bay`'s request expires (R126). -/
  | bayAcceptDeadlineExpiry (bay : Nat)
  | bayTimeoutExpiry (bay : Nat)
  | retryTimerExpiry (bay : Nat)
  | parkTimerExpiry
  | doffTimerExpiry
  | slotEnd
  /-- The drive report on which the grace ends (R145). -/
  | graceEnd (bytes : List Byte)
  | lampBlinkPhaseEnd (lamp : Lamp)
  | sectionTableWrite
  | spindleTableWrite
  | carriageTableWrite
  | processTableWrite
  | detectionTableWrite
  | rovingMarksTableWrite
  | doffTimersTableWrite
  | stopActionTableWrite
  | governorTableWrite
  | speedStepTableWrite
  | shiftTableWrite
  | serviceLineTableWrite
  | partitionTableWrite
  | noticeMaskWrite
  | lampTableWrite
  | tableWrite
  | tableRead
  | frameLive
  | spindleLive
  | spindlePrev
  | history
  | roving
  | records
  | statusRead
  | statusReadClear
  | commission
  | decommission
  | restart
  | doffNow
  | doffClearResume
  | doffClearManualDone
  | doffClearCancel
  | unlock
  | speedLimit
  | applyPartition
  | shiftClose
  | clockSet
  | clockTrim
  | clockAlign
  | forward
  | commandCodeNamingNone
  | selectorNamingNone
  | doffClearOptionNamingNone
  deriving DecidableEq, Repr

end Sys2Proof
end

