-- ==== Sys2Proof/Decode.lean ====
section
/-! DEFINITION. The command that a table word spells. No row of spec/opcode_table.json gives any bits ("fields" is empty
in all 80, and none has "fixed"), so no word spells a command. -/

namespace Sys2Proof

/-- The command whose bits are `w`: none, since the table gives bits to no row. -/
def decodeTableWord (_nbits _w : Nat) : Option Instr := none

end Sys2Proof
end

