-- ==== Sys2Proof/Config.lean ====
section
/-! DEFINITION. What the part fixes: its capacities, and the free values of the model. -/

namespace Sys2Proof.Config

/-- A byte the spec gives no value for (log entries 10 and 11): nothing constrains it. It is applied to a number that
the model draws afresh each time (`State.freeCount`). -/
opaque freeByte : Nat → Byte

/-- Spindles of the frame (00_scope 5.1). -/
def spindles : Nat := 1728
/-- Sections, and creel bays (00_scope 5.1). -/
def sections : Nat := 72
/-- Spindles of one section (00_scope 5.1). -/
def perSection : Nat := 24
/-- Job records of the pool (R50). -/
def records : Nat := 512
/-- Service-line receive queue (R99). -/
def serviceRx : Nat := 20
/-- Each source transmit queue (R102). -/
def serviceTx : Nat := 4
/-- Forward queue (R191). -/
def forward : Nat := 16
/-- Pass-through queue (R192). -/
def passThrough : Nat := 8
/-- Drive-command queue (R193). -/
def driveCommands : Nat := 4
/-- Mill-link receive queue (R198). -/
def millRx : Nat := 8
/-- Shift history list (R185). -/
def history : Nat := 4
/-- Closed slots of the break window (R160). -/
def slots : Nat := 16
/-- Offers one carriage may hold open at once (R75). -/
def window : Nat := 2
/-- Seconds of a bay request's accept deadline (R122). -/
def bayAccept : Nat := 5
/-- Free shared records at or below which POOL_LOW is live (R56). -/
def poolLow : Nat := 8

end Sys2Proof.Config
end

