-- ==== Sys2Proof/Machine/Frames.lean ====
section
/-! DEFINITION. Line frames: bytes, the CRC-16 check, kinds and addresses, and the judging of arriving frames at the
three ports (spec 12.1, 12.2; R97, R187, R198). -/

namespace Sys2Proof.Machine

/-! Bytes: every number wider than one byte travels most significant byte first (chapter 12). -/

/-- The number `v` in `width` bytes. -/
def be : Nat → Nat → List Byte
  | 0, _ => []
  | width + 1, v => BitVec.ofNat 8 (v / 256 ^ width) :: be width v

/-- A signed number in `width` bytes, two's complement. -/
def beInt (width : Nat) (v : Int) : List Byte := be width (v % (256 ^ width : Nat)).toNat

/-- The number that bytes spell. -/
def beVal (bytes : List Byte) : Nat := bytes.foldl (fun acc b => acc * 256 + b.toNat) 0

/-- Byte `i` of a payload as a number; 0 past its end. -/
def byteAt (bytes : List Byte) (i : Nat) : Nat := (bytes.getD i 0).toNat

/-- The `width` bytes from offset `i` as a number. -/
def fieldAt (bytes : List Byte) (i width : Nat) : Nat := beVal ((bytes.drop i).take width)

/-- A field shown as absent reads all ones across its width (chapter 12). -/
def absent (width : Nat) : List Byte := List.replicate width 0xFF#8

/-- One byte. -/
def b1 (v : Nat) : List Byte := be 1 v

/-- YES is 1 and NO is 0 (chapter 12). -/
def yesNo (b : Bool) : Nat := if b then 1 else 0

/-! The check (12.1). -/

/-- One bit of the remainder, generator x^16 + x^12 + x^5 + 1, most significant first. -/
def crcBit (c : BitVec 16) : BitVec 16 := if c.msb then (c <<< 1) ^^^ 0x1021#16 else c <<< 1

/-- One byte of the remainder. -/
def crcByte (c : BitVec 16) (b : Byte) : BitVec 16 :=
  let c := c ^^^ (b.setWidth 16 <<< 8)
  crcBit (crcBit (crcBit (crcBit (crcBit (crcBit (crcBit (crcBit c)))))))

/-- The check of a frame: initial value 0xFFFF, no final inversion. -/
def crc16 (bytes : List Byte) : BitVec 16 := bytes.foldl crcByte 0xFFFF#16

/-- A line frame without its start delimiter (12.1). -/
structure LineFrame where
  dest : Byte
  src : Byte
  kind : Byte
  seq : Byte
  payload : List Byte
  check : BitVec 16
  deriving DecidableEq, Repr

/-- The bytes the check is taken over: destination to the end of the payload. -/
def LineFrame.body (f : LineFrame) : List Byte :=
  [f.dest, f.src, f.kind, f.seq, BitVec.ofNat 8 f.payload.length] ++ f.payload

/-- The frame from destination to check, byte for byte. -/
def LineFrame.bytes (f : LineFrame) : List Byte := f.body ++ be 2 f.check.toNat

/-- The check matches. -/
def LineFrame.checks (f : LineFrame) : Bool := crc16 f.body = f.check

/-- A frame with its check computed. -/
def frameOf (dest src kind seq : Byte) (payload : List Byte) : LineFrame :=
  let f : LineFrame := { dest, src, kind, seq, payload, check := 0 }
  { f with check := crc16 f.body }

/-- The frame that bytes after a start delimiter give, bytes after its declared end ignored; none when they end before
that end or the declared payload length is above 60 (test 1 of R97, R187 and R198). -/
def parseFrame (bytes : List Byte) : Option LineFrame :=
  match bytes with
  | dest :: src :: kind :: seq :: len :: rest =>
    if 60 < len.toNat then none
    else if rest.length < len.toNat + 2 then none
    else some { dest, src, kind, seq, payload := rest.take len.toNat,
                check := BitVec.ofNat 16 (beVal ((rest.drop len.toNat).take 2)) }
  | _ => none

/-! Kinds (12.2) and addresses (00_scope 5.6). -/

def kSurvey : Byte := 0x10
def kDriveReport : Byte := 0x11
def kSensorReply : Byte := 0x12
def kSpeedCap : Byte := 0x18
def kDoffStop : Byte := 0x19
def kRestartPermit : Byte := 0x1A
def kJobOffer : Byte := 0x20
def kJobCancel : Byte := 0x21
def kParkCall : Byte := 0x22
def kRelease : Byte := 0x23
def kDoffStart : Byte := 0x24
def kDoffAbort : Byte := 0x25
def kBayOffer : Byte := 0x26
def kBayWithdraw : Byte := 0x27
def kResultAck : Byte := 0x28
def kAgentStatus : Byte := 0x30
def kJobAccept : Byte := 0x31
def kJobDecline : Byte := 0x32
def kJobResult : Byte := 0x33
def kParked : Byte := 0x34
def kDoffProgress : Byte := 0x35
def kDoffDone : Byte := 0x36
def kDoffFault : Byte := 0x37
def kBayAccept : Byte := 0x38
def kBayDone : Byte := 0x39
def kBayRefused : Byte := 0x3A
def kTableWrite : Byte := 0x40
def kTableRead : Byte := 0x41
def kCommand : Byte := 0x42
def kCountsRead : Byte := 0x43
def kStatusRead : Byte := 0x44
def kForward : Byte := 0x45
def kResponse : Byte := 0x48
def kNotice : Byte := 0x49
def kSurveyCopy : Byte := 0x4A
def kSectionDigest : Byte := 0x4B

/-- The frame drive. -/
def aDrive : Byte := 0x50
/-- The part, on the frame link and the service line. -/
def aPart : Byte := 0x70
/-- The section supervisor. -/
def aSupervisor : Byte := 0xF0

/-- The service-line address of an agent. -/
def agentAddr : Agent → Byte
  | .pc1 => 0x60
  | .pc2 => 0x61
  | .ad => 0x62
  | .rt => 0x63

/-- The agent at a service-line address. -/
def agentAt (a : Byte) : Option Agent :=
  if a = 0x60 then some .pc1 else if a = 0x61 then some .pc2 else if a = 0x62 then some .ad
  else if a = 0x63 then some .rt else none

/-! Judging. -/

/-- What the judging of an arriving frame comes to. -/
inductive Verdict where
  /-- it passes every test -/
  | good (f : LineFrame)
  /-- discarded and counted in a receive-error counter -/
  | error
  /-- discarded with no count -/
  | ignored
  deriving DecidableEq, Repr

/-- A section sensor's address, 0x01 to 0x48. -/
def isSensor (a : Byte) : Bool := 1 ≤ a.toNat ∧ a.toNat ≤ 72

/-- The pairings of source and kind of the frame link (R187, test 4). -/
def frameLinkPair (f : LineFrame) : Bool :=
  (isSensor f.src && (f.kind = kSurvey || f.kind = kSensorReply)) || (f.src = aDrive && f.kind = kDriveReport)

/-- The six tests of R187 on a frame of the frame link. -/
def judgeFrameLink (bytes : List Byte) : Verdict :=
  match parseFrame bytes with
  | none => .error
  | some f =>
    if !f.checks then .error
    else if f.dest ≠ aPart ∧ f.dest ≠ aSupervisor then .ignored
    else if !frameLinkPair f then .error
    else if f.kind = kSurvey ∧ f.payload.length ≠ 52 ∨ f.kind = kDriveReport ∧ f.payload.length ≠ 9 then .error
    else if f.kind = kSurvey ∧ (byteAt f.payload 0 < 1 ∨ 72 < byteAt f.payload 0 ∨ byteAt f.payload 0 ≠ f.src.toNat)
      then .error
    else .good f

/-- The shortest payload of a kind an agent sends (12.3, R212); none where the agent does not send the kind (R97). -/
def agentKindLength (a : Agent) (kind : Byte) : Option Nat :=
  if kind = kAgentStatus then some 4
  else match a with
  | .pc1 | .pc2 =>
    if kind = kJobAccept ∨ kind = kJobDecline then some 1
    else if kind = kJobResult then some 2
    else if kind = kParked then some 0
    else none
  | .ad =>
    if kind = kDoffProgress then some 1
    else if kind = kDoffDone ∨ kind = kDoffFault then some 0
    else none
  | .rt =>
    if kind = kBayAccept ∨ kind = kBayRefused then some 1
    else if kind = kBayDone then some 2
    else none

/-- The four tests of R97 on an opened frame of the service line. -/
def judgeService (bytes : List Byte) : Verdict :=
  match parseFrame bytes with
  | none => .error
  | some f =>
    if !f.checks then .error
    else if f.dest ≠ aPart then .ignored
    else match agentAt f.src with
    | none => .error
    | some a =>
      match agentKindLength a f.kind with
      | none => .error
      | some n => if f.payload.length < n then .error else .good f

/-- The bytes of the frame a carrier brought: those after the first start delimiter, 0x7E (R97; log entry 27). -/
def openedFrame : List Byte → Option (List Byte)
  | [] => none
  | b :: rest => if b = 0x7E then some rest else openedFrame rest

/-- The kinds the supervisor sends (R198, test 3). -/
def isManagementKind (k : Byte) : Bool :=
  k = kTableWrite || k = kTableRead || k = kCommand || k = kCountsRead || k = kStatusRead || k = kForward

/-- The first three tests of R198 on a frame of the mill link. -/
def judgeMill (bytes : List Byte) : Verdict :=
  match parseFrame bytes with
  | none => .error
  | some f =>
    if !f.checks then .error
    else if f.src ≠ aSupervisor ∨ !isManagementKind f.kind then .error
    else .good f

end Sys2Proof.Machine
end

