-- ==== Sys2Proof/Machine/State.lean ====
section
/-! DEFINITION. The state of the part: every register, table, queue, counter, timer and flag the spec names, block by
block (00_scope section 3), as plain data, and its value right after power-on reset. -/

namespace Sys2Proof.Machine

/-- No command stops the part with a fault: everything the spec calls a fault is state (INVENTORY, Faults). -/
inductive Fault where
  deriving DecidableEq, Repr

/-- Why a command has no meaning. -/
inductive Refusal where
  /-- The command is not modelled. Raised by an arm of `exec` alone, and by none now. Safe. -/
  | notModelled (mnemonic : String)
  deriving DecidableEq, Repr

/-! ## The classifier (chapter 1) -/

inductive PartState where
  | unconfigured | commissioned
  deriving DecidableEq, Repr

/-- Forwarding mode of a section (R1). -/
inductive ForwardMode where
  | raw | digest | none
  deriving DecidableEq, Repr

/-- The section state of a commissioned part (R2, R3). -/
structure Watch where
  silent : Bool
  age : Nat
  kept : Option Nat
  deriving DecidableEq, Repr

structure Section where
  enabled : Bool
  mode : ForwardMode
  watch : Option Watch
  deriving DecidableEq, Repr

/-- Origin of a break (R14, R23). -/
inductive Origin where
  | runBreak | startup | rovingReturn
  deriving DecidableEq, Repr

/-- The ten spindle states, each with the fields present in it (R5, R55). -/
inductive SpindleState where
  | blanked
  | idle
  | running
  | suspect (low : Nat) (fromIdle : Bool)
  | broken (good : Nat)
  | offered (good : Nat)
  | verify
  | rovingWait (good : Nat)
  | unlisted (good : Nat) (note : Bool) (origin : Origin)
  | locked
  deriving DecidableEq, Repr

/-- Per-spindle shift counters (R36). -/
structure SpindleCounts where
  pulses : Nat
  breaks : Nat
  slip : Nat
  deriving DecidableEq, Repr

/-- Mark of a creel position (R110). -/
inductive Mark where
  | full | low | empty | overrun
  deriving DecidableEq, Repr

/-- An entry of the roving table (R110). -/
structure Roving where
  remaining : Nat
  mark : Mark
  deriving DecidableEq, Repr

/-- All that the part holds of one spindle and the creel position that feeds it. -/
structure Spindle where
  inUse : Bool
  clampFitted : Bool
  state : SpindleState
  rovingAbsent : Bool
  clampClosed : Bool
  live : SpindleCounts
  prev : SpindleCounts
  build : Nat
  sinceDoff : Nat
  roving : Option Roving
  deriving DecidableEq, Repr

/-- The detection table (R7). -/
structure Detection where
  breakFloor : Nat
  slipFloor : Nat
  confirmCount : Nat
  healConfirm : Nat
  rogueLimit : Nat
  silenceLimit : Nat
  deriving DecidableEq, Repr

/-! ## The counting unit (chapter 2) -/

inductive RunState where
  | running | ramping | stopped
  deriving DecidableEq, Repr

/-- The latest drive report taken (R28). -/
structure Latest where
  speed : Nat
  run : RunState
  stopCode : Nat
  deriving DecidableEq, Repr

/-- The seven closure kinds of a break (R6). -/
inductive CloseKind where
  | pieced | hand | doff | blank | lock | restart | decommission
  deriving DecidableEq, Repr

/-- Closures of the shift, by kind (R35). -/
structure Closures where
  pieced : Nat
  hand : Nat
  doff : Nat
  blank : Nat
  lock : Nat
  restart : Nat
  decommission : Nat
  deriving DecidableEq, Repr

/-- The four downtime counters (R34). -/
structure Downtime where
  d0 : Nat
  d1 : Nat
  d2 : Nat
  d3 : Nat
  deriving DecidableEq, Repr

/-- The frame's live set (R35). -/
structure FrameCounters where
  running : Nat
  producing : Nat
  waste : Nat
  available : Nat
  producingMs : Nat
  unmonitored : Nat
  downtime : Downtime
  openedRun : Nat
  openedStartup : Nat
  carriedIn : Nat
  closures : Closures
  doffs : Nat
  fullCops : Nat
  partialCops : Nat
  baysDone : Nat
  noticesLost : Nat
  deriving DecidableEq, Repr

/-- The process table's eight fields (R38). -/
structure ProcessTable where
  pulseLength : Nat
  contraction : Nat
  draft : Nat
  centitex : Nat
  rovingLength : Nat
  copTarget : Nat
  warnMargin : Nat
  fullCop : Nat
  deriving DecidableEq, Repr

/-- The process table in force with the values derived from it (R40). -/
structure InForce where
  table : ProcessTable
  target : Nat
  warn : Nat
  budget : Nat
  deriving DecidableEq, Repr

structure Pcu where
  latest : Latest
  frame : FrameCounters
  inForce : Option InForce
  staged : Option ProcessTable
  deriving DecidableEq, Repr

/-! ## The job record pool (chapter 3), break records (R64), bay requests (R117), notices (R204) -/

/-- A time of day and day number as the clock holds them (R174). -/
structure Moment where
  hours : Nat
  minutes : Nat
  seconds : Nat
  day : Nat
  deriving DecidableEq, Repr

/-- A stamp: a moment, or no time (R174). -/
abbrev Stamp := Option Moment

inductive Carriage where
  | pc1 | pc2
  deriving DecidableEq, Repr

/-- The state of a PIECE record with the fields present in it (R64). -/
inductive PiecePhase where
  | queued (unserved skip : Bool)
  | offered (tag deadline : Nat)
  | accepted (tag deadline : Nat)
  | verifying (deadline : Nat)
  deriving DecidableEq, Repr

structure PieceRecord where
  spindle : Nat
  origin : Origin
  opened : Stamp
  carriage : Carriage
  attempts : Nat
  phase : PiecePhase
  deriving DecidableEq, Repr

structure HoldRecord where
  spindle : Nat
  origin : Origin
  opened : Stamp
  deriving DecidableEq, Repr

inductive BayPhase where
  | waiting
  | offered (deadline : Nat)
  | accepted (deadline : Nat)
  | refusedWait (timer : Nat)
  deriving DecidableEq, Repr

structure BayRequest where
  bay : Nat
  positions : List Nat
  urgent : Bool
  phase : BayPhase
  created : Stamp
  deriving DecidableEq, Repr

/-- The fourteen notice kinds (R204), in the order of 12.2. -/
inductive NoticeKind where
  | spindleLocked | spindleSlip | sectionSilent | sectionBack | agentAbsent | agentBack | doffState
  | bayRequested | bayClosed | rovingOverrun | governorStep | shiftClosed | trimDone | condition
  deriving DecidableEq, Repr

structure Notice where
  kind : NoticeKind
  number : Nat
  stamp : Stamp
  args : List Int
  deriving DecidableEq, Repr

inductive RecordClass where
  | piece | hold | bay | notice
  deriving DecidableEq, Repr

inductive JobRecord where
  | piece (r : PieceRecord)
  | hold (r : HoldRecord)
  | bay (r : BayRequest)
  | notice (r : Notice)
  deriving DecidableEq, Repr

/-- Four reserves (R51). -/
structure Partition where
  piece : Nat
  hold : Nat
  bay : Nat
  notice : Nat
  deriving DecidableEq, Repr

structure StagedPartition where
  reserves : Partition
  atDoff : Bool
  deriving DecidableEq, Repr

structure Pool where
  records : List (Option JobRecord)
  reserves : Partition
  staged : Option StagedPartition
  deriving DecidableEq, Repr

/-! ## The dispatcher (chapter 4) -/

inductive Direction where
  | up | down
  deriving DecidableEq, Repr

inductive AgentMode where
  | working | parked | fault
  deriving DecidableEq, Repr

structure Zone where
  first : Nat
  last : Nat
  deriving DecidableEq, Repr

/-- A carriage's table entry (R66), status (R67) and next tag (R77). -/
structure CarriageUnit where
  zone : Option Zone
  acceptTimeout : Nat
  resultTimeout : Nat
  maxAttempts : Nat
  enabled : Bool
  position : Nat
  direction : Direction
  mode : AgentMode
  nextTag : Nat
  deriving DecidableEq, Repr

structure Pds where
  pc1 : CarriageUnit
  pc2 : CarriageUnit
  deriving DecidableEq, Repr

/-! ## The service line (chapter 5) -/

/-- The frames the part sends on the service line (R102, 12.3). -/
inductive SvcMsg where
  | jobOffer (tag spindle : Nat) (origin : Origin) (attempts : Nat)
  | jobCancel (tag : Nat)
  | resultAck (tag : Nat) (taken : Bool)
  | parkCall
  | release
  | doffStart
  | doffAbort
  | bayOffer (bay : Nat) (urgent : Bool) (run : RunState) (offsets : List Nat)
  | bayWithdraw (bay : Nat)
  deriving DecidableEq, Repr

/-- A frame of a source transmit queue: its content and its sequence number, which the spec leaves open (log entry 10).
Its bytes are `SvcFrame.wire`. -/
structure SvcFrame where
  msg : SvcMsg
  seq : Byte
  deriving DecidableEq, Repr

/-- The frames agents send, each numeric field as carried (R97, 12.3). -/
inductive AgentMsg where
  | status (position direction mode : Nat)
  | accept (tag : Nat)
  | decline (tag : Nat)
  | result (tag code : Nat)
  | parked
  | progress (sections : Nat)
  | doffDone
  | doffFault
  | bayAccept (bay : Nat)
  | bayDone (bay : Nat) (offsets : List Nat)
  | bayRefused (bay : Nat)
  deriving DecidableEq, Repr

/-- A frame of the receive queue (R99). -/
structure RxFrame where
  agent : Agent
  msg : AgentMsg
  seq : Byte
  deriving DecidableEq, Repr

/-- The line state (R94, R96). -/
inductive LineState where
  /-- QUIET for `ms` milliseconds -/
  | quiet (ms : Nat)
  /-- RECEIVING; a frame may open only when `listening` (R96) -/
  | receiving (listening : Bool)
  /-- TRANSMITTING `frame` to `dest`; a clash was counted for it; another station's carrier stands raised -/
  | transmitting (dest : Agent) (frame : SvcFrame) (clash carrier : Bool)
  deriving DecidableEq, Repr

/-- The service line table (R93). -/
structure ServiceTable where
  gapPart : Nat
  levelThreshold : Nat
  agentSilence : Nat
  deriving DecidableEq, Repr

/-- One thing for each agent. -/
structure PerAgent (α : Type) where
  pc1 : α
  pc2 : α
  ad : α
  rt : α
  deriving DecidableEq, Repr

structure Slc where
  line : LineState
  rx : List RxFrame
  tx : PerAgent (List SvcFrame)
  pointer : Agent
  /-- none when ABSENT, the silence timer when PRESENT (R104) -/
  presence : PerAgent (Option Nat)
  table : ServiceTable
  rxError : Nat
  rxOverflow : Nat
  clash : Nat
  txDrop : PerAgent Nat
  deriving DecidableEq, Repr

/-! ## The roving monitor (chapter 6) -/

/-- The roving marks table (R111). -/
structure RovingMarks where
  lowMark : Nat
  predoffMark : Nat
  batchCount : Nat
  retryDelay : Nat
  bayTimeout : Nat
  deriving DecidableEq, Repr

structure Rvm where
  marks : RovingMarks
  /-- the bay request list, record numbers in order of creation (R117) -/
  requests : List Nat
  wanting : List Bool
  mode : AgentMode
  deriving DecidableEq, Repr

/-! ## The doff sequencer (chapter 7) -/

inductive FaultCause where
  | park | doffer | timeout
  deriving DecidableEq, Repr

inductive Doff where
  | building | preDoff | called | doffing | restarting
  | fault (cause : FaultCause)
  deriving DecidableEq, Repr

structure DoffTimers where
  parkTimeout : Nat
  doffTimeout : Nat
  grace : Nat
  deriving DecidableEq, Repr

inductive OfferPolicy where
  | continue | suspend | cancel
  deriving DecidableEq, Repr

/-- An entry of the stop-action table (R147); `park` is carriage policy PARK. -/
structure StopAction where
  downtimeClass : Nat
  offers : OfferPolicy
  park : Bool
  graceOnRestart : Bool
  deriving DecidableEq, Repr

/-- The stop in force (R148). -/
structure Stop where
  code : Nat
  parkMark : Bool
  doffOwned : Bool
  deriving DecidableEq, Repr

structure Dfs where
  doff : Option Doff
  build : Nat
  timers : DoffTimers
  stops : List StopAction
  stop : Option Stop
  grace : Option Nat
  parkTimer : Option Nat
  doffTimer : Option Nat
  stopSeen : Option Bool
  parked1 : Option Bool
  parked2 : Option Bool
  progress : Nat
  doffer : AgentMode
  deriving DecidableEq, Repr

/-! ## The speed governor (chapter 8) -/

/-- The governor table (R162). -/
structure GovernorTable where
  slotLen : Nat
  minExposure : Nat
  rateLimit : Nat
  hysteresis : Nat
  entryStep : Nat
  floorStep : Nat
  deriving DecidableEq, Repr

structure Slot where
  breaks : Nat
  exposure : Nat
  deriving DecidableEq, Repr

inductive Governor where
  | normal
  | limit (k : Nat)
  deriving DecidableEq, Repr

structure Sgv where
  table : GovernorTable
  steps : List Nat
  /-- closed slots, newest first -/
  closed : List Slot
  opened : Slot
  slotTimer : Option Nat
  lastRate : Option Nat
  governor : Governor
  supervisorCap : Nat
  lastSent : Nat
  sinceSent : Nat
  mismatch : Nat
  deriving DecidableEq, Repr

/-! ## The shift clock and store (chapter 9) -/

inductive Trim where
  | none
  | waiting (cv : Int)
  | owing (cv : Int)
  deriving DecidableEq, Repr

inductive CloseReason where
  | clock | command | decommission
  deriving DecidableEq, Repr

/-- The values a shift record holds besides the counters, converted at the close (R48). -/
structure Converted where
  yarnMm : Nat
  massMg : Nat
  wasteMassMg : Nat
  efficiency : Nat
  breakRate : Option Nat
  deriving DecidableEq, Repr

/-- A shift record (R184). -/
structure ShiftRecord where
  day : Nat
  index : Nat
  start : Stamp
  finish : Stamp
  reason : CloseReason
  counters : FrameCounters
  converted : Converted
  openAtClose : Nat
  deriving DecidableEq, Repr

structure Scs where
  hours : Nat
  minutes : Nat
  seconds : Nat
  day : Nat
  sub : Nat
  valid : Bool
  trim : Trim
  shifts : List (Option Nat)
  /-- none when no shift is open; the start stamp otherwise -/
  openShift : Option Stamp
  /-- newest first -/
  history : List ShiftRecord
  deriving DecidableEq, Repr

/-! ## The frame link interface (chapter 10) -/

/-- A drive command (R193). -/
inductive DriveCmd where
  | doffStop
  | restartPermit
  | speedCap (step rpm : Nat)
  deriving DecidableEq, Repr

/-- The frame in transmission down the frame link (R194). -/
inductive DownFrame where
  | command (c : DriveCmd)
  | inner (bytes : List Byte)
  deriving DecidableEq, Repr

/-- A frame bound up the mill link, before its source address and check are set (R190, R199). -/
structure MillFrame where
  kind : Byte
  seq : Byte
  payload : List Byte
  deriving DecidableEq, Repr

structure Fli where
  forward : List MillFrame
  pass : List (List Byte)
  drive : List DriveCmd
  down : Option DownFrame
  rxError : Nat
  unknownSection : Nat
  forwardDrop : Nat
  passBusy : Nat
  commandDrop : Nat
  deriving DecidableEq, Repr

/-! ## The management frame handler (chapter 11) -/

inductive MillSource where
  | response
  | notice (record : Nat)
  | forward
  deriving DecidableEq, Repr

/-- The frame in transmission up the mill link (R203). -/
structure MillTx where
  source : MillSource
  frame : LineFrame
  deriving DecidableEq, Repr

/-- The two queues of the mill link's round robin (R203). -/
inductive MillQueue where
  | notices | forward
  deriving DecidableEq, Repr

inductive Cond where
  | poolLow | slcLevel | driveCapMismatch | counterSaturated | unlistedPresent | doffFault | clockInvalid
  deriving DecidableEq, Repr

/-- One flag for each condition (R206). -/
structure CondFlags where
  poolLow : Bool
  slcLevel : Bool
  driveCapMismatch : Bool
  counterSaturated : Bool
  unlistedPresent : Bool
  doffFault : Bool
  clockInvalid : Bool
  deriving DecidableEq, Repr

/-- Lamp indications (R207). -/
inductive Indication where
  | queued (n : Nat)
  | unlisted | lockedThisShift
  | overrun | urgent | opened
  | preDoff | calledOrDoffing | fault
  deriving DecidableEq, Repr

inductive Pattern where
  | off | steady | blink1 | blink2
  deriving DecidableEq, Repr

structure LampItem where
  indication : Indication
  pattern : Pattern
  deriving DecidableEq, Repr

/-- On and off length of a blink pattern, in units of 50 ms. -/
structure Blink where
  on : Nat
  off : Nat
  deriving DecidableEq, Repr

structure LampTable where
  brk : List LampItem
  roving : List LampItem
  doff : List LampItem
  blink1 : Blink
  blink2 : Blink
  deriving DecidableEq, Repr

/-- What a lamp shows: its pattern, whether a blink stands in its on part, and that part's length in units. -/
structure LampPhase where
  pattern : Pattern
  on : Bool
  units : Nat
  deriving DecidableEq, Repr

structure Lamps where
  brk : LampPhase
  roving : LampPhase
  doff : LampPhase
  deriving DecidableEq, Repr

structure Mfh where
  frameNumber : Option Nat
  rx : List LineFrame
  slot : Option MillFrame
  tx : Option MillTx
  pointer : MillQueue
  /-- the notice queue, record numbers in the order the records joined -/
  notices : List Nat
  noticeNumber : Nat
  mask : List Bool
  live : CondFlags
  latched : CondFlags
  lampTable : LampTable
  lamps : Lamps
  lockedThisShift : Bool
  rxError : Nat
  rxOverflow : Nat
  deriving DecidableEq, Repr

/-- The state of the part. -/
structure State where
  part : PartState
  sections : List Section
  spindles : List Spindle
  detection : Detection
  pcu : Pcu
  pool : Pool
  pds : Pds
  slc : Slc
  rvm : Rvm
  dfs : Dfs
  sgv : Sgv
  scs : Scs
  fli : Fli
  mfh : Mfh
  /-- the model's own: free values drawn so far (log entry 10) -/
  freeCount : Nat
  /-- the model's own: commands waiting, the first at the head -/
  pending : List Instr
  deriving DecidableEq, Repr

/-! ## Power-on values -/

def SpindleCounts.zero : SpindleCounts := { pulses := 0, breaks := 0, slip := 0 }

/-- R4, R5, R36, R110. -/
def Spindle.reset : Spindle :=
  { inUse := false, clampFitted := false, state := .blanked, rovingAbsent := false, clampClosed := false,
    live := .zero, prev := .zero, build := 0, sinceDoff := 0, roving := none }

/-- R1. -/
def Section.reset : Section := { enabled := false, mode := .none, watch := none }

/-- R7. -/
def Detection.reset : Detection :=
  { breakFloor := 500, slipFloor := 940, confirmCount := 2, healConfirm := 2, rogueLimit := 6, silenceLimit := 8 }

def Closures.zero : Closures :=
  { pieced := 0, hand := 0, doff := 0, blank := 0, lock := 0, restart := 0, decommission := 0 }

def Downtime.zero : Downtime := { d0 := 0, d1 := 0, d2 := 0, d3 := 0 }

def FrameCounters.zero : FrameCounters :=
  { running := 0, producing := 0, waste := 0, available := 0, producingMs := 0, unmonitored := 0, downtime := .zero,
    openedRun := 0, openedStartup := 0, carriedIn := 0, closures := .zero, doffs := 0, fullCops := 0,
    partialCops := 0, baysDone := 0, noticesLost := 0 }

/-- R28. -/
def Latest.reset : Latest := { speed := 0, run := .stopped, stopCode := 0 }

/-- R49. -/
def Pcu.reset : Pcu := { latest := .reset, frame := .zero, inForce := none, staged := none }

/-- The CONDITION notice of CLOCK_INVALID that rises as reset ends (R206): no time, and notice number 0, after which the
number stands at 1. That the first notice carries 0 is read from R204 (log entry 48). -/
def Notice.atReset : Notice := { kind := .condition, number := 0, stamp := none, args := [6] }

/-- R51, R63; record 0 is granted to the notice of R206. -/
def Pool.reset : Pool :=
  { records := some (.notice .atReset) :: List.replicate 511 none,
    reserves := { piece := 256, hold := 64, bay := 24, notice := 64 }, staged := none }

/-- R66, R67, R77. -/
def CarriageUnit.reset : CarriageUnit :=
  { zone := none, acceptTimeout := 3, resultTimeout := 90, maxAttempts := 3, enabled := false,
    position := 1, direction := .up, mode := .parked, nextTag := 0 }

/-- R93, R108. That a carrier that stands as reset ends opens no frame, its bytes being discarded uncounted as R96 has it after
the part's own frame, is the model's reading (log entry 54). -/
def Slc.reset (carrier : Bool) : Slc :=
  { line := if carrier then .receiving false else .quiet 0,
    rx := [], tx := { pc1 := [], pc2 := [], ad := [], rt := [] }, pointer := .rt,
    presence := { pc1 := none, pc2 := none, ad := none, rt := none },
    table := { gapPart := 4, levelThreshold := 14, agentSilence := 10 },
    rxError := 0, rxOverflow := 0, clash := 0, txDrop := { pc1 := 0, pc2 := 0, ad := 0, rt := 0 } }

/-- R111, R130. -/
def Rvm.reset : Rvm :=
  { marks := { lowMark := 100, predoffMark := 250, batchCount := 6, retryDelay := 120, bayTimeout := 600 },
    requests := [], wanting := List.replicate 72 false, mode := .parked }

/-- R132, R147, R159. -/
def Dfs.reset : Dfs :=
  { doff := none, build := 0, timers := { parkTimeout := 60, doffTimeout := 600, grace := 20 },
    stops :=
      [{ downtimeClass := 0, offers := .continue, park := false, graceOnRestart := false },
       { downtimeClass := 1, offers := .suspend, park := true, graceOnRestart := true },
       { downtimeClass := 2, offers := .suspend, park := false, graceOnRestart := true },
       { downtimeClass := 3, offers := .cancel, park := true, graceOnRestart := true },
       { downtimeClass := 0, offers := .suspend, park := false, graceOnRestart := false },
       { downtimeClass := 0, offers := .suspend, park := false, graceOnRestart := false },
       { downtimeClass := 0, offers := .suspend, park := false, graceOnRestart := false },
       { downtimeClass := 0, offers := .suspend, park := false, graceOnRestart := false }],
    stop := none, grace := none, parkTimer := none, doffTimer := none, stopSeen := none, parked1 := none,
    parked2 := none, progress := 0, doffer := .parked }

/-- R162, R165, R166, R170. -/
def Sgv.reset : Sgv :=
  { table := { slotLen := 60, minExposure := 100000, rateLimit := 40, hysteresis := 8, entryStep := 5, floorStep := 3 },
    steps := [14000, 15500, 17000, 18500, 20000, 21500, 23000, 25000],
    closed := [], opened := { breaks := 0, exposure := 0 }, slotTimer := none, lastRate := none,
    governor := .normal, supervisorCap := 7, lastSent := 7, sinceSent := 0, mismatch := 0 }

/-- R172, R180, R186. -/
def Scs.reset : Scs :=
  { hours := 0, minutes := 0, seconds := 0, day := 0, sub := 0, valid := false, trim := .none,
    shifts := [some 21600, some 50400, some 79200, none], openShift := none, history := [] }

/-- R197. -/
def Fli.reset : Fli :=
  { forward := [], pass := [], drive := [], down := none, rxError := 0, unknownSection := 0, forwardDrop := 0,
    passBusy := 0, commandDrop := 0 }

def CondFlags.clear : CondFlags :=
  { poolLow := false, slcLevel := false, driveCapMismatch := false, counterSaturated := false,
    unlistedPresent := false, doffFault := false, clockInvalid := false }

/-- R207. -/
def LampTable.reset : LampTable :=
  { brk := [⟨.unlisted, .blink1⟩, ⟨.queued 24, .steady⟩, ⟨.lockedThisShift, .blink2⟩],
    roving := [⟨.overrun, .blink1⟩, ⟨.urgent, .steady⟩, ⟨.opened, .blink2⟩],
    doff := [⟨.fault, .blink1⟩, ⟨.calledOrDoffing, .steady⟩, ⟨.preDoff, .blink2⟩],
    blink1 := { on := 2, off := 2 }, blink2 := { on := 10, off := 30 } }

/-- A lamp that is OFF. -/
def LampPhase.dark : LampPhase := { pattern := .off, on := false, units := 0 }

/-- R211; CLOCK_INVALID has risen and its notice stands in the notice queue (R206). -/
def Mfh.reset : Mfh :=
  { frameNumber := none, rx := [], slot := none, tx := none, pointer := .forward, notices := [0], noticeNumber := 1,
    mask := List.replicate 14 true, live := { CondFlags.clear with clockInvalid := true },
    latched := { CondFlags.clear with clockInvalid := true }, lampTable := .reset,
    lamps := { brk := .dark, roving := .dark, doff := .dark }, lockedThisShift := false, rxError := 0, rxOverflow := 0 }

/-- The part right after power-on reset with carrier detect standing at `carrier` (R211, R108). -/
def State.resetWith (carrier : Bool) : State :=
  { part := .unconfigured, sections := List.replicate 72 .reset, spindles := List.replicate 1728 .reset,
    detection := .reset, pcu := .reset, pool := .reset, pds := { pc1 := .reset, pc2 := .reset },
    slc := .reset carrier, rvm := .reset, dfs := .reset, sgv := .reset, scs := .reset, fli := .reset, mfh := .reset,
    freeCount := 0, pending := [] }

/-- The part right after power-on reset, carrier detect low. -/
def State.reset : State := State.resetWith false

end Sys2Proof.Machine
end

