-- ==== Sys2Proof/Machine/Flags.lean ====
section
/-! DEFINITION. Saturating counters (R37) and the live and latched flags of the seven conditions (R206). -/

namespace Sys2Proof.Machine

def max8 : Nat := 255
def max16 : Nat := 65535
def max32 : Nat := 4294967295
def max48 : Nat := 281474976710655

/-- An addition to a counter that saturates at `max` (R37). -/
def sat (max counter added : Nat) : Nat := min max (counter + added)

/-- The addition would carry the counter past its maximum, and is cut short (R37). -/
def cutShort (max counter added : Nat) : Bool := max < counter + added

def CondFlags.get (f : CondFlags) : Cond → Bool
  | .poolLow => f.poolLow
  | .slcLevel => f.slcLevel
  | .driveCapMismatch => f.driveCapMismatch
  | .counterSaturated => f.counterSaturated
  | .unlistedPresent => f.unlistedPresent
  | .doffFault => f.doffFault
  | .clockInvalid => f.clockInvalid

def CondFlags.put (f : CondFlags) (c : Cond) (v : Bool) : CondFlags :=
  match c with
  | .poolLow => { f with poolLow := v }
  | .slcLevel => { f with slcLevel := v }
  | .driveCapMismatch => { f with driveCapMismatch := v }
  | .counterSaturated => { f with counterSaturated := v }
  | .unlistedPresent => { f with unlistedPresent := v }
  | .doffFault => { f with doffFault := v }
  | .clockInvalid => { f with clockInvalid := v }

/-- Number of a condition (12.2). -/
def Cond.code : Cond → Nat
  | .poolLow => 0
  | .slcLevel => 1
  | .driveCapMismatch => 2
  | .counterSaturated => 3
  | .unlistedPresent => 4
  | .doffFault => 5
  | .clockInvalid => 6

/-- The flags as a byte, bit c for condition c (12.4). -/
def CondFlags.byte (f : CondFlags) : Nat :=
  yesNo f.poolLow + 2 * yesNo f.slcLevel + 4 * yesNo f.driveCapMismatch + 8 * yesNo f.counterSaturated
    + 16 * yesNo f.unlistedPresent + 32 * yesNo f.doffFault + 64 * yesNo f.clockInvalid

/-- Latched flags keep only those whose live flag is set (R201, R206). -/
def CondFlags.keep (latched live : CondFlags) : CondFlags :=
  { poolLow := latched.poolLow && live.poolLow, slcLevel := latched.slcLevel && live.slcLevel,
    driveCapMismatch := latched.driveCapMismatch && live.driveCapMismatch,
    counterSaturated := latched.counterSaturated && live.counterSaturated,
    unlistedPresent := latched.unlistedPresent && live.unlistedPresent,
    doffFault := latched.doffFault && live.doffFault, clockInvalid := latched.clockInvalid && live.clockInvalid }

/-- The live flag of a condition. -/
def isLive (c : Cond) (s : State) : Bool := s.mfh.live.get c

/-- The live flag of a condition clears; the latched flag stays (R206). -/
def clearLive (c : Cond) (s : State) : State := { s with mfh := { s.mfh with live := s.mfh.live.put c false } }

/-- Both flags of a condition set, without the notice (R206). -/
def setFlags (c : Cond) (s : State) : State :=
  { s with mfh := { s.mfh with live := s.mfh.live.put c true, latched := s.mfh.latched.put c true } }

end Sys2Proof.Machine
end

