-- ==== Sys2Proof/Machine/Operands.lean ====
section
/-! DEFINITION. The operand forms: the fields of arriving frames, the code numbers of enumerated values (12.2), and the
payloads of the frames the part sends (12.3). -/

namespace Sys2Proof.Machine

/-! ## Codes (12.2) -/

def SpindleState.code : SpindleState → Nat
  | .blanked => 0
  | .idle => 1
  | .running => 2
  | .suspect _ _ => 3
  | .broken _ => 4
  | .offered _ => 5
  | .verify => 6
  | .rovingWait _ => 7
  | .unlisted _ _ _ => 8
  | .locked => 9

def Origin.code : Origin → Nat
  | .runBreak => 0
  | .startup => 1
  | .rovingReturn => 2

def RunState.code : RunState → Nat
  | .running => 0
  | .ramping => 1
  | .stopped => 2

/-- A run_state code that names none of the three is taken as STOPPED (R27). -/
def RunState.ofCode (c : Nat) : RunState := if c = 0 then .running else if c = 1 then .ramping else .stopped

def AgentMode.code : AgentMode → Nat
  | .working => 0
  | .parked => 1
  | .fault => 2

def AgentMode.ofCode? (c : Nat) : Option AgentMode :=
  if c = 0 then some .working else if c = 1 then some .parked else if c = 2 then some .fault else none

def Direction.ofCode? (c : Nat) : Option Direction := if c = 0 then some .up else if c = 1 then some .down else none

def Mark.code : Mark → Nat
  | .full => 0
  | .low => 1
  | .empty => 2
  | .overrun => 3

def Doff.code : Doff → Nat
  | .building => 0
  | .preDoff => 1
  | .called => 2
  | .doffing => 3
  | .restarting => 4
  | .fault _ => 5

def FaultCause.code : FaultCause → Nat
  | .park => 1
  | .doffer => 2
  | .timeout => 3

/-- The fault cause of a doff state; 0 is none. -/
def Doff.causeCode : Doff → Nat
  | .fault c => c.code
  | _ => 0

def NoticeKind.code : NoticeKind → Nat
  | .spindleLocked => 0
  | .spindleSlip => 1
  | .sectionSilent => 2
  | .sectionBack => 3
  | .agentAbsent => 4
  | .agentBack => 5
  | .doffState => 6
  | .bayRequested => 7
  | .bayClosed => 8
  | .rovingOverrun => 9
  | .governorStep => 10
  | .shiftClosed => 11
  | .trimDone => 12
  | .condition => 13

def ForwardMode.code : ForwardMode → Nat
  | .raw => 0
  | .digest => 1
  | .none => 2

def ForwardMode.ofCode? (c : Nat) : Option ForwardMode :=
  if c = 0 then some .raw else if c = 1 then some .digest else if c = 2 then some .none else Option.none

def OfferPolicy.code : OfferPolicy → Nat
  | .continue => 0
  | .suspend => 1
  | .cancel => 2

def OfferPolicy.ofCode? (c : Nat) : Option OfferPolicy :=
  if c = 0 then some .continue else if c = 1 then some .suspend else if c = 2 then some .cancel else none

def CloseReason.code : CloseReason → Nat
  | .clock => 0
  | .command => 1
  | .decommission => 2

def Pattern.code : Pattern → Nat
  | .off => 0
  | .steady => 1
  | .blink1 => 2
  | .blink2 => 3

def Pattern.ofCode? (c : Nat) : Option Pattern :=
  if c = 0 then some .off else if c = 1 then some .steady else if c = 2 then some .blink1
  else if c = 3 then some .blink2 else none

/-- Lamp indications are coded by 12.5. -/
def Indication.code : Indication → Nat
  | .queued _ => 0
  | .unlisted => 1
  | .lockedThisShift => 2
  | .overrun => 3
  | .urgent => 4
  | .opened => 5
  | .preDoff => 6
  | .calledOrDoffing => 7
  | .fault => 8

/-- The round-robin pointer as STATUS_READ shows it: the order of R103 from 0, since chapter 12 numbers no agents (log entry
46). -/
def agentCode : Agent → Nat
  | .pc1 => 0
  | .pc2 => 1
  | .ad => 2
  | .rt => 3

def RecordClass.ofCode? (c : Nat) : Option RecordClass :=
  if c = 0 then some .piece else if c = 1 then some .hold else if c = 2 then some .bay
  else if c = 3 then some .notice else none

/-- YES is 1 and NO is 0; any other code names nothing. -/
def yesNo? (c : Nat) : Option Bool := if c = 0 then some false else if c = 1 then some true else none

/-! ## Stamps (12.1) -/

def stampBytes : Stamp → List Byte
  | none => be 6 0
  | some m => b1 1 ++ b1 m.hours ++ b1 m.minutes ++ b1 m.seconds ++ be 2 m.day

/-! ## Surveys and drive reports (12.3) -/

/-- One entry of a survey (R9). -/
structure SurveyEntry where
  pulses : Nat
  rovingAbsent : Bool
  clampClosed : Bool
  sensorFault : Bool
  deriving DecidableEq, Repr

/-- The payload of a SURVEY. -/
structure Survey where
  sectionNo : Nat
  sequence : Nat
  windowMs : Nat
  entries : List SurveyEntry
  deriving DecidableEq, Repr

/-- The pulse count stands in the low 12 bits, the flags in bits 12, 13 and 14; bit 15 is ignored. -/
def surveyEntry (word : Nat) : SurveyEntry :=
  { pulses := word % 4096, rovingAbsent := word.testBit 12, clampClosed := word.testBit 13,
    sensorFault := word.testBit 14 }

def surveyOf (p : List Byte) : Survey :=
  { sectionNo := byteAt p 0, sequence := byteAt p 1, windowMs := fieldAt p 2 2,
    entries := (List.range 24).map fun i => surveyEntry (fieldAt p (4 + 2 * i) 2) }

/-- A drive report, its fields as taken by R27. -/
structure DriveReport where
  pulses : Nat
  speed : Nat
  interval : Nat
  run : RunState
  stopCode : Nat
  cap : Nat
  deriving DecidableEq, Repr

/-- The clamps of R27. -/
def driveReportOf (p : List Byte) : DriveReport :=
  { pulses := fieldAt p 0 2, speed := min 30000 (fieldAt p 2 2), interval := min 2000 (fieldAt p 4 2),
    run := .ofCode (byteAt p 6), stopCode := min 7 (byteAt p 7), cap := byteAt p 8 }

/-- The frame is running on a report whose run_state is RUNNING or RAMPING (R27). -/
def DriveReport.moving (r : DriveReport) : Bool := r.run ≠ .stopped

/-! ## Agent frames (12.3, R97) -/

/-- The content of a valid frame. In a BAY_DONE the position count is taken as the number of position bytes present
whenever it exceeds them (R212). -/
def agentMsgOf (f : LineFrame) : AgentMsg :=
  let p := f.payload
  if f.kind = kAgentStatus then .status (fieldAt p 0 2) (byteAt p 2) (byteAt p 3)
  else if f.kind = kJobAccept then .accept (byteAt p 0)
  else if f.kind = kJobDecline then .decline (byteAt p 0)
  else if f.kind = kJobResult then .result (byteAt p 0) (byteAt p 1)
  else if f.kind = kParked then .parked
  else if f.kind = kDoffProgress then .progress (byteAt p 0)
  else if f.kind = kDoffDone then .doffDone
  else if f.kind = kDoffFault then .doffFault
  else if f.kind = kBayAccept then .bayAccept (byteAt p 0)
  else if f.kind = kBayDone then .bayDone (byteAt p 0) (((p.drop 2).take (byteAt p 1)).map BitVec.toNat)
  else .bayRefused (byteAt p 0)

/-! ## Frames of the part (12.3) -/

def SvcMsg.kind : SvcMsg → Byte
  | .jobOffer _ _ _ _ => kJobOffer
  | .jobCancel _ => kJobCancel
  | .resultAck _ _ => kResultAck
  | .parkCall => kParkCall
  | .release => kRelease
  | .doffStart => kDoffStart
  | .doffAbort => kDoffAbort
  | .bayOffer _ _ _ _ => kBayOffer
  | .bayWithdraw _ => kBayWithdraw

def SvcMsg.payload : SvcMsg → List Byte
  | .jobOffer tag spindle origin attempts => b1 tag ++ be 2 spindle ++ b1 origin.code ++ b1 attempts
  | .jobCancel tag => b1 tag
  | .resultAck tag taken => b1 tag ++ b1 (if taken then 0 else 1)
  | .parkCall | .release | .doffStart | .doffAbort => []
  | .bayOffer bay urgent run offsets =>
    b1 bay ++ b1 (yesNo urgent) ++ b1 run.code ++ b1 offsets.length ++ offsets.flatMap b1
  | .bayWithdraw bay => b1 bay

/-- The bytes of a service-line frame to an agent: source 0x70, the check computed (R102). -/
def SvcFrame.wire (f : SvcFrame) (dest : Agent) : LineFrame :=
  frameOf (agentAddr dest) aPart f.msg.kind f.seq f.msg.payload

def DriveCmd.kind : DriveCmd → Byte
  | .doffStop => kDoffStop
  | .restartPermit => kRestartPermit
  | .speedCap _ _ => kSpeedCap

def DriveCmd.payload : DriveCmd → List Byte
  | .doffStop | .restartPermit => []
  | .speedCap step rpm => b1 step ++ be 2 rpm

/-- The bytes of a drive command: to the drive at 0x50 from 0x70, sequence number 0 (R193). -/
def DriveCmd.wire (c : DriveCmd) : LineFrame := frameOf aDrive aPart c.kind 0 c.payload

/-- The payload of a NOTICE (12.3): unused arguments 0. -/
def Notice.payload (n : Notice) : List Byte :=
  b1 n.number ++ b1 n.kind.code ++ stampBytes n.stamp
    ++ (List.range 4).flatMap fun i => beInt 4 (n.args.getD i 0)

end Sys2Proof.Machine
end

