-- ==== Sys2Proof/Machine/Ops.lean ====
section
/-! DEFINITION. The operations every block shares: reading and writing the tables, the record pool, notices and
conditions, and the placing of frames on the three ports. -/

namespace Sys2Proof.Machine

/-! ## Spindles, sections, carriages, agents -/

/-- Section of spindle `n`, and bay of position `n` (00_scope 5.1). -/
def sectionOf (n : Nat) : Nat := (n - 1) / Config.perSection + 1

/-- The spindles of section `b`, the positions of bay `b`, ascending. -/
def sectionSpindles (b : Nat) : List Nat := (List.range Config.perSection).map fun i => Config.perSection * (b - 1) + 1 + i

/-- Spindle `n`, numbered from 1. -/
def spindle (n : Nat) (s : State) : Spindle := s.spindles.getD (n - 1) .reset

def modSpindle (n : Nat) (f : Spindle → Spindle) (s : State) : State :=
  { s with spindles := s.spindles.modify (n - 1) f }

def setState (n : Nat) (st : SpindleState) (s : State) : State := modSpindle n (fun e => { e with state := st }) s

/-- Section `b`, numbered from 1. -/
def sectionAt (b : Nat) (s : State) : Section := s.sections.getD (b - 1) .reset

def modSection (b : Nat) (f : Section → Section) (s : State) : State :=
  { s with sections := s.sections.modify (b - 1) f }

/-- The section is LIVE (R2). -/
def Section.isLive (e : Section) : Bool :=
  match e.watch with
  | some w => !w.silent
  | none => false

def SpindleState.isBlanked (st : SpindleState) : Bool := st = .blanked

/-- RUNNING and SUSPECT (R5). -/
def SpindleState.producing : SpindleState → Bool
  | .running | .suspect _ _ => true
  | _ => false

/-- The break of the spindle is open (R6). -/
def SpindleState.openBreak : SpindleState → Bool
  | .broken _ | .offered _ | .verify | .rovingWait _ | .unlisted _ _ _ => true
  | _ => false

def SpindleState.isUnlisted : SpindleState → Bool
  | .unlisted _ _ _ => true
  | _ => false

def SpindleState.isRovingWait : SpindleState → Bool
  | .rovingWait _ => true
  | _ => false

/-- Map over a list with the number of each entry, the first being `n`. -/
def mapFrom {α β : Type} (f : Nat → α → β) : Nat → List α → List β
  | _, [] => []
  | n, a :: l => f n a :: mapFrom f (n + 1) l

/-- The numbers, from `n`, of the entries that satisfy `p`, ascending. -/
def numbersFrom {α : Type} (p : α → Bool) : Nat → List α → List Nat
  | _, [] => []
  | n, a :: l => if p a then n :: numbersFrom p (n + 1) l else numbersFrom p (n + 1) l

def carriage (c : Carriage) (s : State) : CarriageUnit :=
  match c with
  | .pc1 => s.pds.pc1
  | .pc2 => s.pds.pc2

def modCarriage (c : Carriage) (f : CarriageUnit → CarriageUnit) (s : State) : State :=
  match c with
  | .pc1 => { s with pds := { s.pds with pc1 := f s.pds.pc1 } }
  | .pc2 => { s with pds := { s.pds with pc2 := f s.pds.pc2 } }

def Carriage.agent : Carriage → Agent
  | .pc1 => .pc1
  | .pc2 => .pc2

/-- The other carriage. -/
def Carriage.other : Carriage → Carriage
  | .pc1 => .pc2
  | .pc2 => .pc1

def agentCarriage : Agent → Option Carriage
  | .pc1 => some .pc1
  | .pc2 => some .pc2
  | .ad | .rt => none

def PerAgent.get {α : Type} (p : PerAgent α) : Agent → α
  | .pc1 => p.pc1
  | .pc2 => p.pc2
  | .ad => p.ad
  | .rt => p.rt

def PerAgent.put {α : Type} (p : PerAgent α) (a : Agent) (v : α) : PerAgent α :=
  match a with
  | .pc1 => { p with pc1 := v }
  | .pc2 => { p with pc2 := v }
  | .ad => { p with ad := v }
  | .rt => { p with rt := v }

/-- PRESENT (R104). -/
def present (a : Agent) (s : State) : Bool := (s.slc.presence.get a).isSome

/-- A stamp taken now: no time while the clock is invalid (R174). -/
def stampNow (s : State) : Stamp :=
  if s.scs.valid then
    some { hours := s.scs.hours, minutes := s.scs.minutes, seconds := s.scs.seconds, day := s.scs.day }
  else none

/-! ## The record pool (chapter 3) -/

def JobRecord.cls : JobRecord → RecordClass
  | .piece _ => .piece
  | .hold _ => .hold
  | .bay _ => .bay
  | .notice _ => .notice

def Partition.get (p : Partition) : RecordClass → Nat
  | .piece => p.piece
  | .hold => p.hold
  | .bay => p.bay
  | .notice => p.notice

def Partition.sum (p : Partition) : Nat := p.piece + p.hold + p.bay + p.notice

/-- in_use_c (R50). -/
def inUse (c : RecordClass) (s : State) : Nat :=
  s.pool.records.countP fun r => r.any fun j => j.cls = c

def overflowOf (used reserve : Nat) : Nat := used - reserve

/-- Σ overflow of the four classes under given reserves (R51). -/
def overflowSum (p : Partition) (s : State) : Nat :=
  overflowOf (inUse .piece s) p.piece + overflowOf (inUse .hold s) p.hold + overflowOf (inUse .bay s) p.bay
    + overflowOf (inUse .notice s) p.notice

/-- The shared portion (R51). -/
def shared (s : State) : Nat := Config.records - s.pool.reserves.sum

/-- Free shared (R51). -/
def freeShared (s : State) : Nat := shared s - overflowSum s.pool.reserves s

/-- Free records of the pool. -/
def freeRecords (s : State) : Nat := s.pool.records.countP Option.isNone

/-- The grant test of R52. -/
def canGrant (c : RecordClass) (s : State) : Bool := inUse c s < s.pool.reserves.get c || 0 < freeShared s

def recordAt (r : Nat) (s : State) : Option JobRecord := (s.pool.records[r]?).join

def setRecord (r : Nat) (j : Option JobRecord) (s : State) : State :=
  { s with pool := { s.pool with records := s.pool.records.set r j } }

/-- The PIECE record numbered `r`. -/
def pieceAt (r : Nat) (s : State) : Option PieceRecord :=
  match recordAt r s with
  | some (.piece p) => some p
  | _ => none

/-- The bay request in record `r`. -/
def requestAt (r : Nat) (s : State) : Option BayRequest :=
  match recordAt r s with
  | some (.bay q) => some q
  | _ => none

/-- The records that satisfy `p`, by number, ascending. -/
def recordsWhere (p : JobRecord → Bool) (s : State) : List Nat :=
  numbersFrom (fun r => r.any p) 0 s.pool.records

/-- A request for a record, filled as `j`: the lowest-numbered free record when the test of R52 passes (R50). The
POOL_LOW test that follows a grant is `testPoolLow`. -/
def grant (j : JobRecord) (s : State) : Option (Nat × State) :=
  if canGrant j.cls s then
    (s.pool.records.findIdx? Option.isNone).map fun r => (r, setRecord r (some j) s)
  else none

/-! ## The mill-link transmitter (R203) -/

/-- The part's address on the mill link. -/
def millAddr (n : Nat) : Byte := BitVec.ofNat 8 (0x80 + n)

/-- A frame up the mill link: its source address and check are set as its transmission begins (R190). -/
def MillFrame.wire (f : MillFrame) (n : Nat) : LineFrame := frameOf aSupervisor (millAddr n) f.kind f.seq f.payload

/-- The NOTICE frame of record `r`; its sequence number is a free value (log entry 10). -/
def noticeFrame (r : Nat) (s : State) : MillFrame :=
  { kind := kNotice, seq := Config.freeByte s.freeCount
    payload := match recordAt r s with
      | some (.notice n) => n.payload
      | _ => [] }

/-- The head of the notice queue begins. -/
def beginNotice (n r : Nat) (rest : List Nat) (s : State) : State :=
  { s with
    mfh := { s.mfh with tx := some { source := .notice r, frame := (noticeFrame r s).wire n }, notices := rest,
                        pointer := .notices }
    freeCount := s.freeCount + 1 }

/-- The head of the forward queue begins. -/
def beginForward (n : Nat) (f : MillFrame) (rest : List MillFrame) (s : State) : State :=
  { s with
    mfh := { s.mfh with tx := some { source := .forward, frame := f.wire n }, pointer := .forward }
    fli := { s.fli with forward := rest } }

/-- The RESPONSE of the slot begins. -/
def beginResponse (n : Nat) (f : MillFrame) (s : State) : State :=
  { s with mfh := { s.mfh with tx := some { source := .response, frame := f.wire n }, slot := none } }

/-- Whenever no frame is in transmission up the mill link and a frame number is adopted, the next frame begins: the
response, else by round robin between the notice queue and the forward queue (R203). -/
def millBegin (s : State) : State :=
  match s.mfh.tx, s.mfh.frameNumber with
  | none, some n =>
    match s.mfh.slot, s.mfh.pointer, s.mfh.notices, s.fli.forward with
    | some f, _, _, _ => beginResponse n f s
    | none, .forward, r :: rest, _ => beginNotice n r rest s
    | none, .forward, [], f :: rest => beginForward n f rest s
    | none, .notices, _, f :: rest => beginForward n f rest s
    | none, .notices, r :: rest, [] => beginNotice n r rest s
    | none, _, [], [] => s
  | _, _ => s

/-! ## Notices and conditions (R204, R206) -/

def modFrame (f : FrameCounters → FrameCounters) (s : State) : State :=
  { s with pcu := { s.pcu with frame := f s.pcu.frame } }

/-- A refused notice adds one to notices lost (R55). -/
def addLost (s : State) : State := modFrame (fun f => { f with noticesLost := sat max16 f.noticesLost 1 }) s

/-- The handler gives a notice the next number (R204). -/
def nextNoticeNumber (s : State) : State :=
  { s with mfh := { s.mfh with noticeNumber := (s.mfh.noticeNumber + 1) % 256 } }

/-- A granted notice record joins the tail of the notice queue (R204). -/
def joinNotices (r : Nat) (s : State) : State :=
  millBegin { s with mfh := { s.mfh with notices := s.mfh.notices ++ [r] } }

def noticeEnabled (k : NoticeKind) (s : State) : Bool := s.mfh.mask.getD k.code false

/-- A notice is raised (R204). Its grant may make POOL_LOW rise (R56) and its refusal may saturate notices lost (R37);
each such rise raises a CONDITION notice in its turn, and neither can rise twice, so three levels are enough. -/
def raiseDepth : Nat → NoticeKind → List Int → State → State
  | 0, _, _, s => s
  | depth + 1, k, args, s =>
    if !noticeEnabled k s then s
    else
      let n : Notice := { kind := k, number := s.mfh.noticeNumber, stamp := stampNow s, args := args }
      let s := nextNoticeNumber s
      match grant (.notice n) s with
      | some (r, s1) =>
        let s2 := joinNotices r s1
        if freeShared s2 ≤ Config.poolLow ∧ !isLive .poolLow s2 then
          raiseDepth depth .condition [(Cond.poolLow.code : Int)] (setFlags .poolLow s2)
        else s2
      | none =>
        let s1 := addLost s
        if cutShort max16 s.pcu.frame.noticesLost 1 && !isLive .counterSaturated s1 then
          raiseDepth depth .condition [(Cond.counterSaturated.code : Int)] (setFlags .counterSaturated s1)
        else s1

def raise (k : NoticeKind) (args : List Int) (s : State) : State := raiseDepth 3 k args s

/-- The owning block sets a live flag: when it was clear the latched flag is set and a CONDITION notice raised (R206). -/
def rise (c : Cond) (s : State) : State :=
  if isLive c s then s else raise .condition [(c.code : Int)] (setFlags c s)

/-- A live flag follows a test. -/
def setCond (c : Cond) (v : Bool) (s : State) : State := if v then rise c s else clearLive c s

/-- POOL_LOW is tested after every grant, free, reclass and applied partition (R56). -/
def testPoolLow (s : State) : State := setCond .poolLow (freeShared s ≤ Config.poolLow) s

/-- UNLISTED_PRESENT follows the state array (R20). -/
def testUnlisted (s : State) : State :=
  setCond .unlistedPresent (s.spindles.any fun e => e.state.isUnlisted) s

/-- COUNTER_SATURATED is set when an addition was cut short (R37). -/
def saturated (cut : Bool) (s : State) : State := if cut then rise .counterSaturated s else s

/-! ## Frame counters of the shift (R35) -/

def Closures.get (c : Closures) : CloseKind → Nat
  | .pieced => c.pieced
  | .hand => c.hand
  | .doff => c.doff
  | .blank => c.blank
  | .lock => c.lock
  | .restart => c.restart
  | .decommission => c.decommission

def Closures.put (c : Closures) (k : CloseKind) (v : Nat) : Closures :=
  match k with
  | .pieced => { c with pieced := v }
  | .hand => { c with hand := v }
  | .doff => { c with doff := v }
  | .blank => { c with blank := v }
  | .lock => { c with lock := v }
  | .restart => { c with restart := v }
  | .decommission => { c with decommission := v }

/-- `n` breaks are closed with kind `k` (R6). -/
def addClosures (k : CloseKind) (n : Nat) (s : State) : State :=
  let c := s.pcu.frame.closures.get k
  saturated (cutShort max16 c n)
    (modFrame (fun f => { f with closures := f.closures.put k (sat max16 c n) }) s)

/-! ## The service line (R95, R102, R103) -/

/-- The sources in round-robin order, beginning after `a` (R103). -/
def sourcesAfter : Agent → List Agent
  | .pc1 => [.pc2, .ad, .rt, .pc1]
  | .pc2 => [.ad, .rt, .pc1, .pc2]
  | .ad => [.rt, .pc1, .pc2, .ad]
  | .rt => [.pc1, .pc2, .ad, .rt]

/-- The line is QUIET and has been for gap_part (R95). -/
def lineFree (s : State) : Bool :=
  match s.slc.line with
  | .quiet ms => s.slc.table.gapPart ≤ ms
  | _ => false

/-- The source the part serves next (R103). -/
def nextSource (s : State) : Option Agent :=
  (sourcesAfter s.slc.pointer).find? fun a => !(s.slc.tx.get a).isEmpty

/-- The first frame of source `a` leaves its queue as its transmission begins (R103). -/
def sendFrom (a : Agent) (s : State) : State :=
  match s.slc.tx.get a with
  | [] => s
  | f :: rest =>
    { s with slc := { s.slc with line := .transmitting a f false false, tx := s.slc.tx.put a rest, pointer := a } }

/-- The part begins a frame when R95 lets it. -/
def serviceBegin (s : State) : State :=
  if lineFree s then
    match nextSource s with
    | some a => sendFrom a s
    | none => s
  else s

/-- The source queue of an agent has room (R102). -/
def hasRoom (a : Agent) (s : State) : Bool := (s.slc.tx.get a).length < Config.serviceTx

/-- A frame joins a source queue; its sequence number is a free value (log entry 10). -/
def enqueue (a : Agent) (m : SvcMsg) (s : State) : State :=
  { s with
    slc := { s.slc with tx := s.slc.tx.put a (s.slc.tx.get a ++ [{ msg := m, seq := Config.freeByte s.freeCount }]) }
    freeCount := s.freeCount + 1 }

/-- The transmit-drop counter of a source rises (R102, R106). -/
def countDrop (a : Agent) (s : State) : State :=
  let n := s.slc.txDrop.get a
  saturated (cutShort max16 n 1) { s with slc := { s.slc with txDrop := s.slc.txDrop.put a (sat max16 n 1) } }

/-- A block places a frame for an agent (R102). On a line already free the frame begins at once (R95). The owner that R103 has
told of it makes its test by `telling`, or by the test that ends the event (log entry 58). -/
def place (a : Agent) (m : SvcMsg) (s : State) : State :=
  if hasRoom a s then serviceBegin (enqueue a m s) else countDrop a s

/-- A frame is placed for each PRESENT carriage, PC1's before PC2's: an order the spec does not give (log entry 42). -/
def placePresent (m : SvcMsg) (s : State) : State :=
  let s := if present .pc1 s then place .pc1 m s else s
  if present .pc2 s then place .pc2 m s else s

/-- SLC_LEVEL follows the occupancy of the receive queue (R101). -/
def testLevel (s : State) : State := setCond .slcLevel (s.slc.table.levelThreshold < s.slc.rx.length) s

/-! ## The frame link (R191 to R194) -/

/-- The part begins a frame down the frame link: drive commands first (R194). -/
def downBegin (s : State) : State :=
  match s.fli.down, s.fli.drive, s.fli.pass with
  | none, c :: rest, _ => { s with fli := { s.fli with down := some (.command c), drive := rest } }
  | none, [], f :: rest => { s with fli := { s.fli with down := some (.inner f), pass := rest } }
  | _, _, _ => s

/-- A drive command is placed, or dropped and counted (R193). -/
def placeDrive (c : DriveCmd) (s : State) : State :=
  if s.fli.drive.length < Config.driveCommands then
    downBegin { s with fli := { s.fli with drive := s.fli.drive ++ [c] } }
  else
    saturated (cutShort max16 s.fli.commandDrop 1)
      { s with fli := { s.fli with commandDrop := sat max16 s.fli.commandDrop 1 } }

/-- The forward-drop counter rises (R196). -/
def countForwardDrop (s : State) : State :=
  saturated (cutShort max16 s.fli.forwardDrop 1)
    { s with fli := { s.fli with forwardDrop := sat max16 s.fli.forwardDrop 1 } }

/-- A frame bound up the mill link is placed, or dropped and counted (R191). -/
def placeForward (f : MillFrame) (s : State) : State :=
  if s.fli.forward.length < Config.forward then
    millBegin { s with fli := { s.fli with forward := s.fli.forward ++ [f] } }
  else countForwardDrop s

end Sys2Proof.Machine
end

