-- ==== Sys2Proof/Machine/Roving.lean ====
section
/-! DEFINITION. The roving monitor's operations: marks, refills, the call test and the offer of bay requests
(chapter 6). -/

namespace Sys2Proof.Machine

/-- The budget the monitor uses: that of the process table in force (R110). -/
def budget (s : State) : Nat :=
  match s.pcu.inForce with
  | some p => p.budget
  | none => 0

/-- The mark that follows from a remaining count (R112). -/
def markOf (budget lowMark remaining : Nat) : Mark :=
  if remaining = 0 then .overrun else if remaining * 1000 ≤ budget * lowMark then .low else .full

/-- A position that is EMPTY keeps its mark; any other is marked by its count (R112). -/
def remarked (budget lowMark : Nat) (r : Roving) : Roving :=
  if r.mark = .empty then r else { r with mark := markOf budget lowMark r.remaining }

/-- The position took a new mark that satisfies `p`. -/
def freshMark (p : Mark → Bool) (old new : Spindle) : Bool :=
  match old.roving, new.roving with
  | some a, some b => a.mark ≠ b.mark && p b.mark
  | _, _ => false

/-- LOW, EMPTY or OVERRUN. -/
def Mark.needs (m : Mark) : Bool := m ≠ .full

/-- EMPTY or OVERRUN. -/
def Mark.pressing (m : Mark) : Bool := m = .empty || m = .overrun

/-- A spindle whose position's count becomes `f` of itself and is marked afresh. -/
def redrawn (f : Spindle → Nat → Nat) (budget lowMark : Nat) (e : Spindle) : Spindle :=
  { e with roving := e.roving.map fun r => remarked budget lowMark { r with remaining := f e r.remaining } }

/-- The positions that took a new mark satisfying `p` as spindles `old` became `new`. -/
def freshPositions (p : Mark → Bool) (old new : List Spindle) : List Nat :=
  numbersFrom (fun x => freshMark p x.1 x.2) 1 (old.zip new)

/-- The spindles after every remaining count becomes `f` of itself and is marked afresh (R112). -/
def redrawList (f : Spindle → Nat → Nat) (s : State) : List Spindle :=
  s.spindles.map (redrawn f (budget s) s.rvm.marks.lowMark)

/-- Every position's count and mark anew; a position that enters OVERRUN raises ROVING_OVERRUN (R112), in ascending position
(log entry 41). -/
def redraw (f : Spindle → Nat → Nat) (s : State) : State :=
  (freshPositions (· = .overrun) s.spindles (redrawList f s)).foldl
    (fun s (n : Nat) => raise .rovingOverrun [(n : Int), ((spindle n s).state.code : Int)] s)
    { s with spindles := redrawList f s }

/-- The bays in which some position took a new mark of LOW or OVERRUN, ascending (R113). -/
def freshBays (f : Spindle → Nat → Nat) (s : State) : List Nat :=
  ((List.range Config.sections).map (· + 1)).filter fun b =>
    (freshPositions Mark.needs s.spindles (redrawList f s)).any fun n => sectionOf n = b

/-- All bays, ascending. -/
def allBays : List Nat := (List.range Config.sections).map (· + 1)

/-! ## Bay requests (6.4, 6.5) -/

/-- The requests in order of creation, each with its record number (R117). -/
def requestList (s : State) : List (Nat × BayRequest) :=
  s.rvm.requests.filterMap fun r => (requestAt r s).map fun q => (r, q)

/-- The request of bay `b`. -/
def requestOf (b : Nat) (s : State) : Option (Nat × BayRequest) := (requestList s).find? fun x => x.2.bay = b

def setRequest (r : Nat) (q : BayRequest) (s : State) : State := setRecord r (some (.bay q)) s

def wanting (b : Nat) (s : State) : Bool := s.rvm.wanting.getD (b - 1) false

def setWanting (b : Nat) (v : Bool) (s : State) : State :=
  { s with rvm := { s.rvm with wanting := s.rvm.wanting.set (b - 1) v } }

/-- The positions of a bay whose spindle is not BLANKED, with their entries (R118). -/
def bayEntries (b : Nat) (s : State) : List (Nat × Roving) :=
  (sectionSpindles b).filterMap fun n =>
    if (spindle n s).state.isBlanked then none else (spindle n s).roving.map fun r => (n, r)

def BayPhase.isWaiting : BayPhase → Bool
  | .waiting => true
  | _ => false

/-- OFFERED or ACCEPTED. -/
def BayPhase.inService : BayPhase → Bool
  | .offered _ | .accepted _ => true
  | _ => false

/-- Offset of a position within its bay, 1 to 24. -/
def bayOffset (n : Nat) : Nat := (n - 1) % Config.perSection + 1

/-- The request the monitor would offer: the oldest WAITING one of urgency URGENT, or else the oldest WAITING (R122). -/
def nextRequest (s : State) : Option (Nat × BayRequest) :=
  match (requestList s).find? fun x => x.2.phase.isWaiting && x.2.urgent with
  | some x => some x
  | none => (requestList s).find? fun x => x.2.phase.isWaiting

/-- The conditions of R122 but the last. -/
def mayOfferBay (s : State) : Bool :=
  s.part = .commissioned && present .rt s && s.rvm.mode = .working
    && !((requestList s).any fun x => x.2.phase.inService) && hasRoom .rt s

/-- The monitor's offer test (R122). -/
def bayOfferTest (s : State) : State :=
  if mayOfferBay s then
    match nextRequest s with
    | some (r, q) =>
      place .rt (.bayOffer q.bay q.urgent s.pcu.latest.run (q.positions.map bayOffset))
        (setRequest r { q with phase := .offered Config.bayAccept } s)
    | none => s
  else s

/-- A request is created for a calling bay, or the bay is marked wanting (R119). -/
def createRequest (b : Nat) (listed : List Nat) (urgent : Bool) (s : State) : State :=
  match grant (.bay { bay := b, positions := listed, urgent := urgent, phase := .waiting, created := stampNow s }) s with
  | some (r, s1) =>
    let s2 := setWanting b false { s1 with rvm := { s1.rvm with requests := s1.rvm.requests ++ [r] } }
    bayOfferTest
      (raise .bayRequested [(b : Int), (yesNo urgent : Int), (listed.length : Int)] (testPoolLow s2))
  | none => setWanting b true s

/-- A WAITING request takes in the listed positions (R120). -/
def extended (listed : List Nat) (urgent : Bool) (q : BayRequest) : BayRequest :=
  { q with positions := (sectionSpindles q.bay).filter fun n => q.positions.contains n || listed.contains n
           urgent := q.urgent || urgent }

/-- A position is listed by the pre-doff call (R118). -/
def nearDoff (s : State) (r : Roving) : Bool := r.remaining * 1000 ≤ budget s * s.rvm.marks.predoffMark

/-- A position is listed when its bay calls (R118). -/
def listedBy (preDoff : Bool) (s : State) (r : Roving) : Bool := r.mark.needs || (preDoff && nearDoff s r)

/-- The bay calls (R118). -/
def calls (preDoff : Bool) (b : Nat) (s : State) : Bool :=
  let es := bayEntries b s
  es.any (fun x => x.2.mark.pressing)
    || s.rvm.marks.batchCount ≤ es.countP (fun x => x.2.mark = .low)
    || (wanting b s && es.any fun x => x.2.mark.needs)
    || (preDoff && es.any fun x => nearDoff s x.2)

/-- The positions listed when the bay calls (R118). -/
def listedPositions (preDoff : Bool) (b : Nat) (s : State) : List Nat :=
  ((bayEntries b s).filter fun x => listedBy preDoff s x.2).map Prod.fst

/-- The call test of a bay (R118). That positions of BLANKED spindles do not keep the wanting mark of a bay that does not call
is the model's choice (log entry 55). -/
def callTest (preDoff : Bool) (b : Nat) (s : State) : State :=
  let urgent := (bayEntries b s).any fun x => x.2.mark.pressing
  if calls preDoff b s then
    match requestOf b s with
    | none => createRequest b (listedPositions preDoff b s) urgent s
    | some (r, q) =>
      if q.phase.isWaiting then setRequest r (extended (listedPositions preDoff b s) urgent q) s else s
  else if wanting b s && !((bayEntries b s).any fun x => x.2.mark.needs) then setWanting b false s
  else s

/-- The call test for each of some bays in turn. -/
def callTests (preDoff : Bool) (bays : List Nat) (s : State) : State :=
  bays.foldl (fun s b => callTest preDoff b s) s

/-- A position is marked EMPTY; when the mark is newly EMPTY the bay has its call test (R114). -/
def markEmpty (n : Nat) (s : State) : State :=
  match (spindle n s).roving with
  | some r =>
    if r.mark = .empty then s
    else callTest false (sectionOf n) (modSpindle n (fun e => { e with roving := some { r with mark := .empty } }) s)
  | none => s

/-- A refill sets the count to the budget and the mark to FULL (R115). -/
def refill (n : Nat) (s : State) : State :=
  modSpindle n (fun e => { e with roving := e.roving.map fun _ => { remaining := budget s, mark := .full } }) s

/-- A request returns to WAITING: the bay's call test extends it, and the offer test follows (R120, R126). -/
def returnToWaiting (r : Nat) (q : BayRequest) (s : State) : State :=
  bayOfferTest (callTest false q.bay (setRequest r { q with phase := .waiting } s))

/-- The spindle's position is consuming roving (R113). -/
def Spindle.consuming (e : Spindle) : Bool :=
  !e.state.isBlanked && !e.state.isRovingWait && !e.clampClosed && !(e.state = .locked && e.clampFitted)

/-- A running report draws every consuming position down (R113). -/
def consume (pulses : Nat) (s : State) : State :=
  let draw : Spindle → Nat → Nat := fun e left => if e.consuming then left - pulses else left
  callTests false (freshBays draw s) (redraw draw s)

end Sys2Proof.Machine
end

