-- ==== Sys2Proof/Machine/Piecing.lean ====
section
/-! DEFINITION. The dispatcher's operations: sweep distance, assignment, the offer test, requeues, the freeing of records
with the UNLISTED sweep, and charged attempts (chapters 3 and 4). -/

namespace Sys2Proof.Machine

/-! ## Zones and distances -/

def Zone.holds (z : Zone) (n : Nat) : Bool := z.first ≤ n && n ≤ z.last

/-- The carriage's zone holds the spindle. -/
def CarriageUnit.covers (u : CarriageUnit) (n : Nat) : Bool := u.zone.any fun z => z.holds n

/-- The sweep distance of R68 in a zone `lo` to `hi`. -/
def sweepDistanceIn (lo hi position : Nat) (d : Direction) (n : Nat) : Nat :=
  let pos := if position < lo then lo else if hi < position then hi else position
  match d with
  | .up => if pos ≤ n then n - pos else (hi - pos) + (hi - n)
  | .down => if n ≤ pos then pos - n else (pos - lo) + (n - lo)

/-- The sweep distance from a carriage to a spindle of its zone (R68). -/
def CarriageUnit.distance (u : CarriageUnit) (n : Nat) : Nat :=
  match u.zone with
  | some z => sweepDistanceIn z.first z.last u.position u.direction n
  | none => 0

/-- A candidate for a record on spindle `n` (R69). -/
def CarriageUnit.candidate (u : CarriageUnit) (n : Nat) : Bool := u.enabled && u.covers n

/-- The carriage a record on spindle `n` is assigned to; none leaves it unserved (R69). -/
def assignee (n : Nat) (s : State) : Option Carriage :=
  match s.pds.pc1.candidate n, s.pds.pc2.candidate n with
  | false, false => none
  | true, false => some .pc1
  | false, true => some .pc2
  | true, true =>
    if present .pc1 s && !present .pc2 s then some .pc1
    else if !present .pc1 s && present .pc2 s then some .pc2
    else if s.pds.pc2.distance n < s.pds.pc1.distance n then some .pc2
    else some .pc1

/-! ## The offer test (R75 to R77) -/

/-- The offer policy of a stop code (R147). -/
def stopAction (code : Nat) (s : State) : StopAction :=
  s.dfs.stops.getD code { downtimeClass := 0, offers := .suspend, park := false, graceOnRestart := false }

/-- The sequencer permits offers (R135). -/
def permitted (s : State) : Bool :=
  (s.dfs.doff = some .building || s.dfs.doff = some .preDoff) && s.dfs.grace.isNone
    && (match s.dfs.stop with
      | none => true
      | some st => (stopAction st.code s).offers = .continue)

/-- OFFERED or ACCEPTED. -/
def PiecePhase.inWindow : PiecePhase → Bool
  | .offered _ _ | .accepted _ _ => true
  | _ => false

/-- The offer window of a carriage, by record number (R65). -/
def windowOf (c : Carriage) (s : State) : List Nat :=
  recordsWhere (fun j => match j with
    | .piece p => p.carriage = c && p.phase.inWindow
    | _ => false) s

/-- The record is eligible to be offered to carriage `c` (R75). -/
def eligible (c : Carriage) (s : State) (j : JobRecord) : Bool :=
  match j with
  | .piece p => p.carriage = c && p.phase = .queued false false && (carriage c s).covers p.spindle
  | _ => false

/-- The distance of a record's spindle from carriage `c`. -/
def recordDistance (c : Carriage) (s : State) (r : Nat) : Nat :=
  match pieceAt r s with
  | some p => (carriage c s).distance p.spindle
  | none => 0

/-- The record of least distance (R73). -/
def nearest (c : Carriage) (s : State) : List Nat → Option Nat
  | [] => none
  | r :: rest =>
    match nearest c s rest with
    | none => some r
    | some q => if recordDistance c s r ≤ recordDistance c s q then some r else some q

/-- The record next to be offered to carriage `c`, when every condition of R75 holds. -/
def nextOffer (c : Carriage) (s : State) : Option Nat :=
  if s.part = .commissioned && (carriage c s).enabled && present c.agent s && (carriage c s).mode = .working
      && (windowOf c s).length < Config.window && hasRoom c.agent s && permitted s then
    nearest c s (recordsWhere (eligible c s) s)
  else none

def setPiece (r : Nat) (p : PieceRecord) (s : State) : State := setRecord r (some (.piece p)) s

/-- Record `r` is offered to carriage `c` (R77). -/
def offer (c : Carriage) (r : Nat) (s : State) : State :=
  match pieceAt r s with
  | none => s
  | some p =>
    let u := carriage c s
    place c.agent (.jobOffer u.nextTag p.spindle p.origin p.attempts)
      (setState p.spindle (.offered 0)
        (modCarriage c (fun v => { v with nextTag := (v.nextTag + 1) % 256 })
          (setPiece r { p with phase := .offered u.nextTag u.acceptTimeout } s)))

/-- One round of the offer test. -/
def offerOnce (c : Carriage) (s : State) : State :=
  match nextOffer c s with
  | some r => offer c r s
  | none => s

/-- The offer test of carriage `c`: a window of two lets it make at most two offers (R76). -/
def offerTest (c : Carriage) (s : State) : State := offerOnce c (offerOnce c s)

/-- The offer tests of both carriages (R76, R135), PC1's before PC2's: an order the spec does not give (log entry 42). -/
def offerTests (s : State) : State := offerTest .pc2 (offerTest .pc1 s)

/-! ## Assignment and requeue -/

/-- The record is QUEUED where R69 places it, with skip NO. -/
def assignQuiet (r : Nat) (s : State) : State :=
  match pieceAt r s with
  | none => s
  | some p =>
    match assignee p.spindle s with
    | some c => setPiece r { p with carriage := c, phase := .queued false false } s
    | none => setPiece r { p with carriage := .pc1, phase := .queued true false } s

/-- The offer test of the carriage that record `r` now belongs to. -/
def offerFor (r : Nat) (s : State) : State :=
  match pieceAt r s with
  | some p => offerTest p.carriage s
  | none => s

/-- A new PIECE record is assigned, and the offer test follows (R69). -/
def assign (r : Nat) (s : State) : State := offerFor r (assignQuiet r s)

/-- A record returns to QUEUED by R70, and its spindle to BROKEN with good count 0. -/
def requeueQuiet (r : Nat) (skip : Bool) (s : State) : State :=
  match pieceAt r s with
  | none => s
  | some p =>
    let s1 := setState p.spindle (.broken 0) s
    if (carriage p.carriage s).candidate p.spindle then setPiece r { p with phase := .queued false skip } s1
    else assignQuiet r s1

/-- A requeue with the offer tests that follow: for the carriage the record now belongs to, and for carriage `c`, in
whose window a place may have been freed (R76). The order of the two tests is the model's (log entry 42). -/
def requeue (c : Carriage) (r : Nat) (skip : Bool) (s : State) : State :=
  offerTest c (offerFor r (requeueQuiet r skip s))

/-! ## The UNLISTED sweep (R57) and frees (R53) -/

/-- One UNLISTED spindle asks the pool for a record in a sweep pass; the record it is granted. -/
def sweepOne (n : Nat) (s : State) : Option Nat × State :=
  match (spindle n s).state with
  | .unlisted _ note origin =>
    let rec' : JobRecord :=
      if note then .hold { spindle := n, origin := origin, opened := stampNow s }
      else .piece { spindle := n, origin := origin, opened := stampNow s, carriage := .pc1, attempts := 0,
                    phase := .queued true false }
    match grant rec' s with
    | some (r, s1) => (some r, setState n (if note then .rovingWait 0 else .broken 0) s1)
    | none => (none, s)
  | _ => (none, s)

/-- The UNLISTED spindles asked in turn; the records granted, in order. -/
def sweepList : List Nat → State → List Nat × State
  | [], s => ([], s)
  | n :: rest, s =>
    let one := sweepOne n s
    let more := sweepList rest one.2
    (one.1.toList ++ more.1, more.2)

/-- The UNLISTED spindles, ascending. -/
def unlistedSpindles (s : State) : List Nat := numbersFrom (fun e => e.state.isUnlisted) 1 s.spindles

/-- What a granted record of a sweep pass brings on other blocks, after the pass (R57). -/
def sweepEffect (s : State) (r : Nat) : State :=
  match recordAt r s with
  | some (.piece _) => assign r s
  | some (.hold h) => markEmpty h.spindle s
  | _ => s

/-- A pass of the UNLISTED sweep with the effects that follow it (R57). The effects of several grants are taken in the order
of grant: an order the spec does not give (log entry 43). That they come directly after the pass, before whatever else the
event still has to do, is the model's choice too (log entry 52). -/
def sweep (s : State) : State :=
  let pass := sweepList (unlistedSpindles s) s
  pass.1.foldl sweepEffect (testPoolLow (testUnlisted pass.2))

/-- A record is freed, POOL_LOW tested, without a pass (R58). -/
def freeQuiet (r : Nat) (s : State) : State := testPoolLow (setRecord r none s)

/-- A record is freed and a pass of the sweep follows (R53). -/
def free (r : Nat) (s : State) : State := sweep (freeQuiet r s)

/-- The break record of spindle `n` (R6). -/
def breakRecordOf (n : Nat) (s : State) : Option Nat :=
  (recordsWhere (fun j => match j with
    | .piece p => p.spindle = n
    | .hold h => h.spindle = n
    | _ => false) s).head?

/-- JOB_CANCEL for a record that stands in its carriage's window (R89). -/
def cancelOffer (p : PieceRecord) (s : State) : State :=
  match p.phase with
  | .offered tag _ | .accepted tag _ => place p.carriage.agent (.jobCancel tag) s
  | _ => s

/-- A spindle becomes LOCKED (R14, R79, R207). -/
def lockSpindle (n : Nat) (s : State) : State :=
  let s1 := setState n .locked s
  { s1 with mfh := { s1.mfh with lockedThisShift := true } }

/-! ## Charged attempts (R79) -/

/-- A charged attempt of record `r`; the offer test of its carriage follows, since a place may have been freed. A LOCK is
counted before the free (log entry 60). -/
def chargedAttempt (r : Nat) (skip : Bool) (s : State) : State :=
  match pieceAt r s with
  | none => s
  | some p =>
    let attempts := p.attempts + 1
    let s1 := setPiece r { p with attempts := attempts } s
    if attempts < (carriage p.carriage s).maxAttempts then requeue p.carriage r skip s1
    else
      offerTest p.carriage
        (raise .spindleLocked [(p.spindle : Int), 1, (attempts : Int)]
          (free r (addClosures .lock 1 (lockSpindle p.spindle s1))))

end Sys2Proof.Machine
end

