-- ==== Sys2Proof/Machine/Classifier.lean ====
section
/-! DEFINITION. The survey classifier's operations: readings, confirmation, heals, verification, the taking of a survey,
blanking, and the closing of breaks (chapter 1). -/

namespace Sys2Proof.Machine

/-! ## Readings (R8 to R10) -/

inductive Reading where
  | low | slow | good
  deriving DecidableEq, Repr

/-- The clamp of window_ms (R8). -/
def clampWindow (ms : Nat) : Nat := if ms < 100 then 100 else if 2000 < ms then 2000 else ms

/-- The expected pulse count E (R8). -/
def expectedPulses (speed windowMs : Nat) : Nat := speed * clampWindow windowMs / 60000

/-- The least E at which readings are applied (R8). -/
def leastExpected : Nat := 16

/-- The reading of an entry (R10). -/
def readingOf (d : Detection) (expected : Nat) (e : SurveyEntry) : Reading :=
  if e.rovingAbsent then .low
  else if e.pulses * 1000 < expected * d.breakFloor then .low
  else if e.pulses * 1000 < expected * d.slipFloor then .slow
  else .good

/-! ## Breaks (R14, R15) -/

/-- Start-up grace is active while the grace timer is (R145). -/
def graceActive (s : State) : Bool := s.dfs.grace.isSome

/-- The origin of a confirmed break (R14). -/
def originOf (fromIdle : Bool) (s : State) : Origin :=
  if graceActive s then .startup else if fromIdle then .startup else .runBreak

/-- A confirmation is counted: breaks since doff, live breaks, the shift's count for the origin, and for RUN_BREAK the
governor's open slot (R14, R36, R160). -/
def countConfirmation (n : Nat) (o : Origin) (s : State) : State :=
  let e := spindle n s
  let run := o = .runBreak
  let opened := if run then s.pcu.frame.openedRun else s.pcu.frame.openedStartup
  let s1 := modSpindle n (fun e => { e with
    sinceDoff := sat max8 e.sinceDoff 1, live := { e.live with breaks := sat max8 e.live.breaks 1 } }) s
  let s2 := modFrame (fun f =>
    if run then { f with openedRun := sat max16 f.openedRun 1 }
    else { f with openedStartup := sat max16 f.openedStartup 1 }) s1
  let s3 : State := if run then
      { s2 with sgv := { s2.sgv with opened :=
          { s2.sgv.opened with breaks := sat max16 s2.sgv.opened.breaks 1 } } }
    else s2
  saturated (cutShort max8 e.sinceDoff 1 || cutShort max8 e.live.breaks 1 || cutShort max16 opened 1
    || (run && cutShort max16 s.sgv.opened.breaks 1)) s3

/-- A new PIECE record before its assignment (R64). -/
def newPiece (n : Nat) (o : Origin) (t : Stamp) : PieceRecord :=
  { spindle := n, origin := o, opened := t, carriage := .pc1, attempts := 0, phase := .queued true false }

/-- One record is asked for spindle `n`: a PIECE record, or a HOLD record when `hold` (R15, R55). -/
def requestBreak (n : Nat) (hold : Bool) (o : Origin) (s : State) : State :=
  if hold then
    match grant (.hold { spindle := n, origin := o, opened := stampNow s }) s with
    | some (_, s1) => markEmpty n (testPoolLow (setState n (.rovingWait 0) s1))
    | none => markEmpty n (testUnlisted (setState n (.unlisted 0 true o) s))
  else
    match grant (.piece (newPiece n o (stampNow s))) s with
    | some (r, s1) => assign r (testPoolLow (setState n (.broken 0) s1))
    | none => testUnlisted (setState n (.unlisted 0 false o) s)

/-- The state that `requestBreak` gives the spindle, before any other block acts on it. -/
def requestedCode (hold : Bool) (s : State) : Nat :=
  if canGrant (if hold then .hold else .piece) s then (if hold then 7 else 4) else 8

/-- The rogue test of R14, after the count. -/
def isRogue (n : Nat) (s : State) : Bool :=
  s.detection.rogueLimit ≠ 0 && s.detection.rogueLimit ≤ (spindle n s).sinceDoff

/-- A break is confirmed (R14). -/
def confirmBreak (n : Nat) (fromIdle : Bool) (s : State) : State :=
  let o := originOf fromIdle s
  let s1 := countConfirmation n o s
  if isRogue n s1 then
    raise .spindleLocked [(n : Int), 0, ((spindle n s1).sinceDoff : Int)] (addClosures .lock 1 (lockSpindle n s1))
  else requestBreak n (spindle n s1).rovingAbsent o s1

/-- The state code that the classifier's confirmation leaves the spindle in (R21). -/
def confirmedCode (n : Nat) (fromIdle : Bool) (s : State) : Nat :=
  let s1 := countConfirmation n (originOf fromIdle s) s
  if isRogue n s1 then 9 else requestedCode (spindle n s1).rovingAbsent s1

/-! ## Heals and verification (R16 to R18) -/

/-- A spindle heals: RUNNING, its break closed HAND, with the effects of the state it healed from (R17). The closure is counted
before the record is freed (log entry 60). -/
def heal (n : Nat) (s : State) : State :=
  let st := (spindle n s).state
  let s1 := addClosures .hand 1 (setState n .running s)
  match st, breakRecordOf n s with
  | .unlisted _ note _, _ => testUnlisted (if note then refill n s1 else s1)
  | .rovingWait _, some r => free r (refill n s1)
  | _, some r =>
    match pieceAt r s with
    | some p =>
      let s2 := free r (cancelOffer p s1)
      if p.phase.inWindow then offerTest p.carriage s2 else s2
    | none => free r s1
  | _, none => s1

/-- A good or slow reading of a VERIFY spindle (R18, R87); its closure is counted before the free (log entry 60). -/
def verified (n : Nat) (s : State) : State :=
  let s1 := addClosures .pieced 1 (setState n .running s)
  match breakRecordOf n s with
  | some r => free r s1
  | none => s1

/-- A low reading of a VERIFY spindle: a charged attempt with skip NO (R18, R87). -/
def verifyFailed (n : Nat) (s : State) : State :=
  match breakRecordOf n s with
  | some r => chargedAttempt r false s
  | none => s

/-- The state code a failed verification gives the spindle (R18). -/
def verifyFailedCode (n : Nat) (s : State) : Nat :=
  match breakRecordOf n s with
  | some r =>
    match pieceAt r s with
    | some p => if p.attempts + 1 < (carriage p.carriage s).maxAttempts then 4 else 9
    | none => 6
  | none => 6

/-! ## Applying a reading (R11 to R13, R16, R18, R19) -/

/-- A slow reading adds one to the live slip count; the first of the shift raises SPINDLE_SLIP (R11). -/
def addSlip (n : Nat) (s : State) : State :=
  let slip := (spindle n s).live.slip
  let s1 := modSpindle n (fun e => { e with live := { e.live with slip := sat max16 e.live.slip 1 } }) s
  let s2 := saturated (cutShort max16 slip 1) s1
  if slip = 0 then raise .spindleSlip [(n : Int)] s2 else s2

/-- What taking one survey entry comes to: the state, the code of the spindle state that the classifier's own work left,
and whether that work changed the spindle's state (R21). -/
structure Taken where
  state : State
  code : Nat
  changed : Bool

/-- The low reading that makes a spindle SUSPECT, and confirms at once when confirm_count is 1 (R12). -/
def takeFirstLow (n : Nat) (fromIdle : Bool) (s : State) : Taken :=
  let s1 := setState n (.suspect 1 fromIdle) s
  if s.detection.confirmCount ≤ 1 then
    { state := confirmBreak n fromIdle s1, code := confirmedCode n fromIdle s1, changed := true }
  else { state := s1, code := 3, changed := true }

/-- A reading of a spindle that keeps a good count: `back good` is its state with that count (R16). -/
def takeHealing (n good : Nat) (back : Nat → SpindleState) (r : Reading) (s : State) : Taken :=
  match r with
  | .low => { state := setState n (back 0) s, code := (back 0).code, changed := false }
  | .slow | .good =>
    if s.detection.healConfirm ≤ good + 1 then { state := heal n s, code := 2, changed := true }
    else { state := setState n (back (good + 1)) s, code := (back 0).code, changed := false }

/-- A reading is applied to a spindle's state, its slip already counted. -/
def takeReading (n : Nat) (r : Reading) (s : State) : Taken :=
  match (spindle n s).state with
  | .blanked => { state := s, code := 0, changed := false }
  | .locked => { state := s, code := 9, changed := false }
  | .idle =>
    if r = .low then takeFirstLow n true s
    else { state := setState n .running s, code := 2, changed := true }
  | .running =>
    if r = .low then takeFirstLow n false s else { state := s, code := 2, changed := false }
  | .suspect low fromIdle =>
    if r = .low then
      let s1 := setState n (.suspect (low + 1) fromIdle) s
      if s.detection.confirmCount ≤ low + 1 then
        { state := confirmBreak n fromIdle s1, code := confirmedCode n fromIdle s1, changed := true }
      else { state := s1, code := 3, changed := false }
    else { state := setState n .running s, code := 2, changed := true }
  | .broken good => takeHealing n good .broken r s
  | .offered good => takeHealing n good .offered r s
  | .rovingWait good => takeHealing n good .rovingWait r s
  | .unlisted good note origin => takeHealing n good (fun g => .unlisted g note origin) r s
  | .verify =>
    if r = .low then { state := verifyFailed n s, code := verifyFailedCode n s, changed := true }
    else { state := verified n s, code := 2, changed := true }

/-- The spindle takes readings (R19). -/
def SpindleState.reads (st : SpindleState) : Bool := st ≠ .blanked && st ≠ .locked

/-- A reading of spindle `n` (R11). A slow reading's slip and its notice come before the reading moves the spindle: an order
the spec does not give, the model's choice (log entry 50). -/
def applyReading (n : Nat) (r : Reading) (s : State) : Taken :=
  takeReading n r (if r = .slow && (spindle n s).state.reads then addSlip n s else s)

/-- The flags of an entry are recorded (R9). -/
def recordFlags (n : Nat) (e : SurveyEntry) (s : State) : State :=
  modSpindle n (fun x => { x with rovingAbsent := e.rovingAbsent, clampClosed := e.clampClosed }) s

/-- One entry of a survey that is not a repeat (R9, R10). -/
def takeEntry (expected n : Nat) (e : SurveyEntry) (s : State) : Taken :=
  if e.sensorFault || (spindle n s).state.isBlanked then
    { state := s, code := (spindle n s).state.code, changed := false }
  else
    let s1 := recordFlags n e s
    if expected < leastExpected then { state := s1, code := (spindle n s).state.code, changed := false }
    else applyReading n (readingOf s.detection expected e) s1

/-- What the taking of a survey comes to: the state, the section's spindle states as the classifier left them, and
whether it changed any (R21). -/
structure SurveyTaken where
  state : State
  codes : List Nat
  changed : Bool

/-- The entries of a survey, in spindle order from spindle `n`. What other blocks do on one entry (assignment, offer test,
call test) is done before the next entry is taken: the spec is silent on it, and this is the model's choice (log entry 44). -/
def takeEntries (expected : Nat) : Nat → List SurveyEntry → State → SurveyTaken
  | _, [], s => { state := s, codes := [], changed := false }
  | n, e :: rest, s =>
    let one := takeEntry expected n e s
    let more := takeEntries expected (n + 1) rest one.state
    { state := more.state, codes := one.code :: more.codes, changed := one.changed || more.changed }

/-- The section is dealt with first (R3): its state, and whether the survey goes on (it is no repeat). -/
def meetSection (sv : Survey) (s : State) : State × Bool :=
  let put := fun w : Watch => modSection sv.sectionNo (fun e => { e with watch := some w }) s
  match (sectionAt sv.sectionNo s).watch with
  | some w =>
    if w.silent then
      (raise .sectionBack [(sv.sectionNo : Int)] (put { silent := false, age := 0, kept := some sv.sequence }), true)
    else if w.kept = some sv.sequence then (put { w with age := 0 }, false)
    else (put { silent := false, age := 0, kept := some sv.sequence }, true)
  | none => (put { silent := false, age := 0, kept := some sv.sequence }, true)

/-- First spindle of a section. -/
def firstSpindle (b : Nat) : Nat := Config.perSection * (b - 1) + 1

/-- The classifier takes a survey from an enabled section (R3, R8 to R10, R21). -/
def classify (sv : Survey) (s : State) : SurveyTaken :=
  let met := meetSection sv s
  if met.2 then
    takeEntries (expectedPulses s.pcu.latest.speed sv.windowMs) (firstSpindle sv.sectionNo) sv.entries met.1
  else { state := met.1, codes := [], changed := false }

/-- One step of silence age for every section, and the silence test (R2). -/
def agedWatch (limit : Nat) (w : Watch) : Watch :=
  let age := min 255 (w.age + 1)
  if !w.silent && limit ≤ age then { silent := true, age := age, kept := none } else { w with age := age }

def agedSection (limit : Nat) (e : Section) : Section := { e with watch := e.watch.map (agedWatch limit) }

/-- The section becomes SILENT by this step. -/
def fallsSilent (limit : Nat) (e : Section) : Bool := e.isLive && !(agedSection limit e).isLive

/-- Every section ages, and those that fall SILENT raise SECTION_SILENT (R2), in ascending section number: an order the spec
does not give (log entry 41). -/
def ageSections (s : State) : State :=
  (numbersFrom (fallsSilent s.detection.silenceLimit) 1 s.sections).foldl
    (fun s (b : Nat) => raise .sectionSilent [(b : Int)] s)
    { s with sections := s.sections.map (agedSection s.detection.silenceLimit) }

/-! ## Blanking (R24) -/

/-- A spindle is blanked: its flags read NO (R9), an open break is closed BLANK, and counted before the free (log entry 60). -/
def blank (n : Nat) (s : State) : State :=
  let st := (spindle n s).state
  let s1 := modSpindle n (fun e => { e with state := .blanked, rovingAbsent := false, clampClosed := false }) s
  if st.openBreak then
    let s2 := addClosures .blank 1 s1
    match breakRecordOf n s with
    | some r =>
      match pieceAt r s with
      | some p =>
        let s3 := free r (cancelOffer p s2)
        if p.phase.inWindow then offerTest p.carriage s3 else s3
      | none => free r s2
    | none => testUnlisted s2
  else s1

/-- A BLANKED spindle becomes IDLE, and its bay has its call test (R24, R118). -/
def unblank (n : Nat) (s : State) : State := callTest false (sectionOf n) (setState n .idle s)

/-! ## Wholesale closings (R58) -/

/-- Spindles whose state satisfies `p`. -/
def countState (p : SpindleState → Bool) (s : State) : Nat := s.spindles.countP fun e => p e.state

/-- Every record that satisfies `p` is freed; POOL_LOW is tested after the frees. -/
def freeAll (p : JobRecord → Bool) (s : State) : State :=
  testPoolLow { s with pool := { s.pool with
    records := s.pool.records.map fun r => if r.any p then none else r } }

def JobRecord.isPiece : JobRecord → Bool
  | .piece _ => true
  | _ => false

/-- A break record, class PIECE or HOLD (R64). -/
def JobRecord.isBreak : JobRecord → Bool
  | .piece _ | .hold _ => true
  | _ => false

def JobRecord.isBay : JobRecord → Bool
  | .bay _ => true
  | _ => false

/-- Every open break is closed with kind `k` and its record freed, and the spindles take the states `f` gives (R26, R58).
DESIGN CHOICE: all the closures are counted before any record is freed (log entry 60). -/
def closeBreaks (k : CloseKind) (f : Spindle → Spindle) (s : State) : State :=
  let open' := countState SpindleState.openBreak s
  let s1 := addClosures k open' s
  freeAll JobRecord.isBreak { s1 with spindles := s1.spindles.map f }

/-- The state a spindle takes at RESTART (R26). -/
def restartSpindle (e : Spindle) : Spindle :=
  if e.state = .locked ∨ e.state = .blanked then e else { e with state := .idle }

/-- Every section LIVE, age 0, no kept sequence (R26). -/
def freshSections (s : State) : State :=
  { s with sections := s.sections.map fun e => { e with watch := some { silent := false, age := 0, kept := none } } }

end Sys2Proof.Machine
end

