-- ==== Sys2Proof/Machine/Counting.lean ====
section
/-! DEFINITION. The counting unit's operations: conversions, the crediting of drive reports, tables coming into force, and
the counts at shift close (chapter 2). -/

namespace Sys2Proof.Machine

/-! ## Conversions (2.6) -/

/-- D of R43. -/
def ProcessTable.delivery (t : ProcessTable) : Nat := t.pulseLength * (1000 - t.contraction)

/-- Yarn length of `pulses` (R41). -/
def ProcessTable.yarnMm (t : ProcessTable) (pulses : Nat) : Nat := pulses * t.pulseLength * (1000 - t.contraction) / 10 ^ 9

/-- Mass of a length (R42). -/
def ProcessTable.massMg (t : ProcessTable) (mm : Nat) : Nat := mm * t.centitex / 100000

/-- Length of waste pulses (R42). -/
def ProcessTable.wasteMm (t : ProcessTable) (pulses : Nat) : Nat := pulses * t.pulseLength / 10 ^ 6

/-- The quotient rounded up. -/
def ceilDiv (a b : Nat) : Nat := (a + b - 1) / b

/-- target_pulses (R43). -/
def ProcessTable.target (t : ProcessTable) : Nat := ceilDiv (t.copTarget * 10 ^ 12) t.delivery

/-- warn_pulses (R43). -/
def ProcessTable.warn (t : ProcessTable) : Nat := t.warnMargin * 10 ^ 12 / t.delivery

/-- The roving budget before its clamp (R44). -/
def ProcessTable.rawBudget (t : ProcessTable) : Nat := t.rovingLength * 10 ^ 7 * t.draft / t.pulseLength

/-- An initial build of `m` metres in pulses (R43). -/
def ProcessTable.initialBuild (t : ProcessTable) (m : Nat) : Nat := min max32 (m * 10 ^ 12 / t.delivery)

/-- A table in force with its derived values (R40). -/
def ProcessTable.inForce (t : ProcessTable) : InForce :=
  { table := t, target := t.target, warn := t.warn, budget := min max32 t.rawBudget }

/-- Efficiency in permille (R45). -/
def efficiency (producing available : Nat) : Nat := if available = 0 then 0 else producing * 1000 / available

/-- Break rate, none when there is no exposure (R46). -/
def breakRate (breaks exposure : Nat) : Option Nat :=
  if exposure = 0 then none else some (min max16 (breaks * 3600000000 / exposure))

/-- The converted values of a frame's counters: 0 and absent where no table has come into force (R47, R48). -/
def convert (p : Option InForce) (f : FrameCounters) : Converted :=
  match p with
  | none => { yarnMm := 0, massMg := 0, wasteMassMg := 0, efficiency := 0, breakRate := none }
  | some p =>
    { yarnMm := p.table.yarnMm f.producing, massMg := p.table.massMg (p.table.yarnMm f.producing),
      wasteMassMg := p.table.massMg (p.table.wasteMm f.waste), efficiency := efficiency f.producingMs f.available,
      breakRate := breakRate (f.openedRun + f.openedStartup) f.producingMs }

/-! ## Crediting a report (R29 to R34) -/

/-- How many entries satisfy `p` with their number, the first being `n`. -/
def countFrom {α : Type} (p : Nat → α → Bool) : Nat → List α → Nat
  | _, [] => 0
  | n, a :: l => (if p n a then 1 else 0) + countFrom p (n + 1) l

/-- Spindle `n` lies in a LIVE section. -/
def inLive (s : State) (n : Nat) : Bool := (sectionAt (sectionOf n) s).isLive

/-- The section of spindle `n` is SILENT. -/
def inSilent (s : State) (n : Nat) : Bool :=
  match (sectionAt (sectionOf n) s).watch with
  | some w => w.silent
  | none => false

/-- The spindle is credited: producing, in a LIVE section (R30). -/
def credited (s : State) (n : Nat) (e : Spindle) : Bool := e.state.producing && inLive s n

/-- Spindles credited by a report. -/
def producingCount (s : State) : Nat := countFrom (credited s) 1 s.spindles

/-- Spindles counted as available (R31). -/
def availableCount (s : State) : Nat := countFrom (fun n e => !e.state.isBlanked && inLive s n) 1 s.spindles

/-- Spindles counted as unmonitored (R31). -/
def unmonitoredCount (s : State) : Nat := countFrom (fun n e => !e.state.isBlanked && inSilent s n) 1 s.spindles

/-- W: spindles that draw roving without making yarn (R32). -/
def wasteCount (s : State) : Nat :=
  countFrom (fun n e => inLive s n && !e.state.producing && !e.state.isBlanked && e.consuming) 1 s.spindles

/-- The pulses a spindle earns (R30). -/
def creditSpindle (s : State) (pulses n : Nat) (e : Spindle) : Spindle :=
  if credited s n e then
    { e with live := { e.live with pulses := sat max32 e.live.pulses pulses }, build := sat max32 e.build pulses }
  else e

/-- Some spindle's addition is cut short. -/
def spindleCut (s : State) (pulses : Nat) : Bool :=
  0 < countFrom (fun n e =>
    credited s n e && (cutShort max32 e.live.pulses pulses || cutShort max32 e.build pulses)) 1 s.spindles

/-- The frame's counters after a running report (R30 to R32). -/
def creditFrame (s : State) (pulses ms : Nat) (f : FrameCounters) : FrameCounters :=
  { f with
    running := sat max32 f.running pulses
    producing := sat max48 f.producing (pulses * producingCount s)
    waste := sat max48 f.waste (pulses * wasteCount s)
    available := sat max48 f.available (ms * availableCount s)
    producingMs := sat max48 f.producingMs (ms * producingCount s)
    unmonitored := sat max48 f.unmonitored (ms * unmonitoredCount s) }

/-- Some frame counter's addition is cut short. -/
def frameCut (s : State) (pulses ms : Nat) (f : FrameCounters) : Bool :=
  cutShort max32 f.running pulses || cutShort max48 f.producing (pulses * producingCount s)
    || cutShort max48 f.waste (pulses * wasteCount s) || cutShort max48 f.available (ms * availableCount s)
    || cutShort max48 f.producingMs (ms * producingCount s) || cutShort max48 f.unmonitored (ms * unmonitoredCount s)

/-- A running report is credited (R30 to R32). -/
def creditRunning (pulses ms : Nat) (s : State) : State :=
  saturated (spindleCut s pulses || frameCut s pulses ms s.pcu.frame)
    (modFrame (creditFrame s pulses ms) { s with spindles := mapFrom (creditSpindle s pulses) 1 s.spindles })

def Downtime.get (d : Downtime) : Nat → Nat
  | 0 => d.d0
  | 1 => d.d1
  | 2 => d.d2
  | _ => d.d3

def Downtime.put (d : Downtime) (i v : Nat) : Downtime :=
  match i with
  | 0 => { d with d0 := v }
  | 1 => { d with d1 := v }
  | 2 => { d with d2 := v }
  | _ => { d with d3 := v }

/-- A stopped report is counted under the downtime class of its stop code (R34). -/
def creditStopped (ms code : Nat) (s : State) : State :=
  let cls := (stopAction code s).downtimeClass
  let d := s.pcu.frame.downtime.get cls
  saturated (cutShort max32 d ms)
    (modFrame (fun f => { f with downtime := f.downtime.put cls (sat max32 d ms) }) s)

/-- The counting unit's own share of a report (R28 to R34). -/
def countReport (r : DriveReport) (s : State) : State :=
  let s1 := { s with pcu := { s.pcu with latest := { speed := r.speed, run := r.run, stopCode := r.stopCode } } }
  if r.moving then creditRunning r.pulses r.interval s1 else creditStopped r.interval r.stopCode s1

/-! ## Other counts of the shift -/

def addDoffs (s : State) : State :=
  saturated (cutShort max16 s.pcu.frame.doffs 1) (modFrame (fun f => { f with doffs := sat max16 f.doffs 1 }) s)

def addBaysDone (s : State) : State :=
  saturated (cutShort max16 s.pcu.frame.baysDone 1) (modFrame (fun f => { f with baysDone := sat max16 f.baysDone 1 }) s)

/-- The full-cop level F (R141). -/
def fullCopLevel (p : InForce) : Nat := p.target * p.table.fullCop / 1000

/-- The cops of a doff: full, then partial (R141). -/
def copCount (s : State) : Nat × Nat :=
  let level := match s.pcu.inForce with
    | some p => fullCopLevel p
    | none => 0
  (s.spindles.countP fun e => !e.state.isBlanked && 0 < e.build && level ≤ e.build,
   s.spindles.countP fun e => !e.state.isBlanked && 0 < e.build && e.build < level)

def addCops (full partial' : Nat) (s : State) : State :=
  saturated (cutShort max16 s.pcu.frame.fullCops full || cutShort max16 s.pcu.frame.partialCops partial')
    (modFrame (fun f => { f with fullCops := sat max16 f.fullCops full,
                                 partialCops := sat max16 f.partialCops partial' }) s)

/-! ## Process tables (R39) -/

/-- The staged process table, if any, comes into force (R39). -/
def bringIntoForce (s : State) : State :=
  match s.pcu.staged with
  | some t => { s with pcu := { s.pcu with inForce := some t.inForce, staged := none } }
  | none => s

/-! ## Shift close (R48, R183) -/

/-- Every spindle's live counters become its previous ones (R48). -/
def moveCounts (e : Spindle) : Spindle := { e with prev := e.live, live := .zero }

/-- The record of the shift being closed (R183, R184). -/
def shiftRecord (index : Nat) (reason : CloseReason) (s : State) : ShiftRecord :=
  { day := s.scs.day, index := index, start := s.scs.openShift.join, finish := stampNow s, reason := reason,
    counters := s.pcu.frame, converted := convert s.pcu.inForce s.pcu.frame,
    openAtClose := countState SpindleState.openBreak s }

/-- A shift is closed: steps 1 to 6 of R183. -/
def closeShift (index : Nat) (reason : CloseReason) (s : State) : State :=
  let rec' := shiftRecord index reason s
  let s1 : State := clearLive .counterSaturated
    { s with
      pcu := { s.pcu with frame := { FrameCounters.zero with carriedIn := rec'.openAtClose } }
      spindles := s.spindles.map moveCounts
      scs := { s.scs with history := (rec' :: s.scs.history).take Config.history, openShift := some rec'.finish } }
  let s2 := raise .shiftClosed
    [(rec'.day : Int), (rec'.index : Int), (reason.code : Int), (rec'.openAtClose : Int)] s1
  { s2 with mfh := { s2.mfh with lockedThisShift := false } }

end Sys2Proof.Machine
end

