-- ==== Sys2Proof/Machine/Governor.lean ====
section
/-! DEFINITION. The speed governor's operations: the break window, the rate, the caps and the check of the drive
(chapter 8). -/

namespace Sys2Proof.Machine

/-- The governor cap: 7 in NORMAL, the step k in LIMIT (R164). -/
def Governor.cap : Governor → Nat
  | .normal => 7
  | .limit k => k

/-- The effective cap (R167): the lower of the two caps in both part states. That a STATUS_READ shows it so while the part is
UNCONFIGURED is the model's reading (log entry 47). -/
def effectiveCap (s : State) : Nat := min s.sgv.governor.cap s.sgv.supervisorCap

/-- The speed of a step in the speed-step table (R166). -/
def stepSpeed (step : Nat) (s : State) : Nat := s.sgv.steps.getD step 0

/-- SPEED_CAP is placed with the effective cap (R167). -/
def sendCap (s : State) : State :=
  let cap := effectiveCap s
  placeDrive (.speedCap cap (stepSpeed cap s))
    { s with sgv := { s.sgv with lastSent := cap, sinceSent := 0,
                                 mismatch := if cap = s.sgv.lastSent then s.sgv.mismatch else 0 } }

/-- The effective cap recomputed: SPEED_CAP when it differs from the one it replaces (R167). -/
def recap (before : Nat) (s : State) : State := if effectiveCap s = before then s else sendCap s

/-- Producing exposure of a running report joins the open slot (R160). -/
def addExposure (ms : Nat) (s : State) : State :=
  saturated (cutShort max48 s.sgv.opened.exposure ms)
    { s with sgv := { s.sgv with opened := { s.sgv.opened with exposure := sat max48 s.sgv.opened.exposure ms } } }

/-- Breaks and exposure of the closed slots (R163). -/
def windowBreaks (s : State) : Nat := (s.sgv.closed.map Slot.breaks).sum
def windowExposure (s : State) : Nat := (s.sgv.closed.map Slot.exposure).sum

/-- Steps 1 and 2 of a slot end (R161). -/
def rollSlot (s : State) : State :=
  { s with sgv := { s.sgv with closed := (s.sgv.opened :: s.sgv.closed).take Config.slots,
                               opened := { breaks := 0, exposure := 0 }, slotTimer := some s.sgv.table.slotLen } }

/-- The governor after a computed rate (R164). -/
def governorAfter (t : GovernorTable) (rate : Nat) : Governor → Governor
  | .normal => if t.rateLimit ≤ rate then .limit t.entryStep else .normal
  | .limit k =>
    if t.rateLimit ≤ rate then (if t.floorStep < k then .limit (k - 1) else .limit k)
    else if rate < t.rateLimit - t.hysteresis then (if k + 1 < 7 then .limit (k + 1) else .normal)
    else .limit k

/-- The rate an evaluation computes: none when it is skipped or held (R163). -/
def evaluatedRate (s : State) : Option Nat :=
  if s.dfs.doff = some .building ∨ s.dfs.doff = some .preDoff then
    if windowExposure s < s.sgv.table.minExposure * 1000 then none
    else breakRate (windowBreaks s) (windowExposure s)
  else none

/-- A computed rate moves the governor (R164). -/
def governorStep (rate : Nat) (s : State) : State :=
  let old := s.sgv.governor
  let new := governorAfter s.sgv.table rate old
  let before := effectiveCap s
  let s1 : State := { s with sgv := { s.sgv with lastRate := some rate, governor := new } }
  if new.cap = old.cap then s1
  else recap before
    (raise .governorStep [(new.cap : Int), (old.cap : Int), (rate : Int), (effectiveCap s1 : Int)] s1)

/-- The rate is evaluated (R163). -/
def evaluate (s : State) : State :=
  match evaluatedRate s with
  | some rate => governorStep rate s
  | none => s

/-- Mismatch reports at which DRIVE_CAP_MISMATCH rises, and reports after which a cap is sent again (R168). -/
def mismatchLimit : Nat := 12
def resendAfter : Nat := 4

/-- cap_in_force is compared with the effective cap (R168). -/
def capCheck (cap : Nat) (s : State) : State :=
  let since := min 255 (s.sgv.sinceSent + 1)
  if cap = effectiveCap s then
    clearLive .driveCapMismatch { s with sgv := { s.sgv with sinceSent := since, mismatch := 0 } }
  else
    let count := min 255 (s.sgv.mismatch + 1)
    let s1 : State := { s with sgv := { s.sgv with sinceSent := since, mismatch := count } }
    let s2 := if mismatchLimit ≤ count then rise .driveCapMismatch s1 else s1
    if resendAfter ≤ since then sendCap s2 else s2

/-- The governor's work at COMMISSION and RESTART (R170, R171). -/
def startGovernor (s : State) : State :=
  let s1 : State := clearLive .driveCapMismatch
    { s with sgv := { s.sgv with closed := [], opened := { breaks := 0, exposure := 0 },
                                 slotTimer := some s.sgv.table.slotLen, lastRate := none, governor := .normal,
                                 sinceSent := 0, mismatch := 0 } }
  if effectiveCap s1 = s1.sgv.lastSent then s1 else sendCap s1

end Sys2Proof.Machine
end

