-- ==== Sys2Proof/Machine/Doffing.lean ====
section
/-! DEFINITION. The doff sequencer's operations: doff states, the call, the wait, DOFFING entry, grace, frame stops, the
carriage hold, and what a change of a carriage's presence brings (chapter 7, R72). -/

namespace Sys2Proof.Machine

/-! ## Doff states and the hold (R133, R152, R153) -/

/-- The doff state changes: DOFF_STATE is raised and the DOFF_FAULT flag follows (R133). -/
def moveDoff (new : Doff) (s : State) : State :=
  let left := match s.dfs.doff with
    | some d => d.code
    | none => 0
  let s1 : State := { s with dfs := { s.dfs with doff := some new } }
  setCond .doffFault (new.code = 5)
    (raise .doffState [(new.code : Int), (left : Int), (new.causeCode : Int), (s.dfs.progress : Int)] s1)

/-- DOFF_CALLED, DOFFING or DOFF_FAULT. -/
def Doff.holds : Doff → Bool
  | .called | .doffing | .fault _ => true
  | _ => false

/-- The carriage hold (R152). -/
def carriageHold (s : State) : Bool :=
  s.dfs.doff.any Doff.holds || s.dfs.stop.any fun st => st.parkMark

def parkMark (c : Carriage) (s : State) : Option Bool :=
  match c with
  | .pc1 => s.dfs.parked1
  | .pc2 => s.dfs.parked2

def setParkMark (c : Carriage) (v : Option Bool) (s : State) : State :=
  match c with
  | .pc1 => { s with dfs := { s.dfs with parked1 := v } }
  | .pc2 => { s with dfs := { s.dfs with parked2 := v } }

/-- The parking marks are discarded. -/
def dropMarks (s : State) : State := { s with dfs := { s.dfs with stopSeen := none, parked1 := none, parked2 := none } }

/-- The mark of a carriage at the call: NO when PRESENT, none when ABSENT (R136). -/
def callMark (c : Carriage) (s : State) : Option Bool := if present c.agent s then some false else none

/-! ## Grace and permission (R135, R145) -/

/-- The grace timer is armed (R145). -/
def armGrace (s : State) : State := { s with dfs := { s.dfs with grace := some (s.dfs.timers.grace * 1000) } }

/-- An event's work `f`; when it makes the permission of R135 go from withheld to given, both offer tests follow. That their
JOB_OFFER frames come after the frames that `f` placed is the model's choice (log entry 51). -/
def withPermission (f : State → State) (s : State) : State :=
  let s1 := f s
  if !permitted s && permitted s1 then offerTests s1 else s1

/-! ## A frame begins (R95, R103) -/

/-- What the owner of a source queue does when a place comes free in it (R103). -/
def placeFreed (a : Agent) (s : State) : State :=
  match a with
  | .pc1 => offerTest .pc1 s
  | .pc2 => offerTest .pc2 s
  | .ad => s
  | .rt => bayOfferTest s

/-- The source of the part's frame on the line. -/
def sendingFrom (s : State) : Option Agent :=
  match s.slc.line with
  | .transmitting a _ _ _ => some a
  | _ => none

/-- An event's work `f`; where the part begins a frame in it, the owner of that frame's source is told of the place that came
free (R103). That the owner makes its test once the event's work is done, and not in the middle of it, is the model's choice
(log entry 58). -/
def telling (f : State → State) (s : State) : State :=
  let s1 := f s
  match sendingFrom s, sendingFrom s1 with
  | none, some a => placeFreed a s1
  | _, _ => s1

/-- The part begins a frame when R95 lets it, and the owner of its source is told (R103). -/
def serviceTurn (s : State) : State := telling serviceBegin s

/-- A block places a frame which no test of its own follows; the owner of the frame that begins by it is told (R102, R103). -/
def placeTold (a : Agent) (m : SvcMsg) (s : State) : State := telling (place a m) s

/-! ## Calling the doff and entering it (R136, R138, R140) -/

/-- The doff is called (R136). -/
def callDoff (s : State) : State :=
  let s1 := placePresent .parkCall (placeDrive .doffStop s)
  moveDoff .called
    { s1 with dfs := { s1.dfs with
        parked1 := callMark .pc1 s1, parked2 := callMark .pc2 s1, stopSeen := some false,
        parkTimer := some s1.dfs.timers.parkTimeout,
        stop := s1.dfs.stop.map fun st => { st with doffOwned := true, parkMark := false } } }

/-- Spindles that become IDLE at DOFFING entry (R23). -/
def SpindleState.clearedAtDoff : SpindleState → Bool
  | .broken _ | .offered _ | .verify | .unlisted _ _ _ | .suspect _ _ | .running => true
  | _ => false

/-- Open breaks closed DOFF at DOFFING entry (R23). -/
def SpindleState.closedAtDoff (st : SpindleState) : Bool := st.openBreak && !st.isRovingWait

def doffSpindle (e : Spindle) : Spindle := if e.state.clearedAtDoff then { e with state := .idle } else e

/-- JOB_CANCEL for every record in a window, in ascending record number (R140; log entry 19). -/
def cancelAll (s : State) : State :=
  (recordsWhere JobRecord.isPiece s).foldl
    (fun s r => match pieceAt r s with
      | some p => cancelOffer p s
      | none => s) s

/-- Step 2 of DOFFING entry: every PIECE record is closed DOFF (R58, R140). DESIGN CHOICE: the JOB_CANCEL frames are placed and
all the closures counted before any record is freed (log entry 60). -/
def closeForDoff (s : State) : State :=
  let s1 := addClosures .doff (countState SpindleState.closedAtDoff s) (cancelAll s)
  testUnlisted (freeAll JobRecord.isPiece { s1 with spindles := s1.spindles.map doffSpindle })

/-- Step 5 of DOFFING entry: the staged process table comes into force and the roving is rescaled (R39, R116). -/
def stagedProcessTurn (s : State) : State :=
  match s.pcu.staged with
  | none => s
  | some t =>
    let old := budget s
    let new := t.inForce.budget
    callTests false allBays (redraw (fun _ left => left * new / old) (bringIntoForce s))

/-- A staged partition fits the pool (R60). -/
def partitionFits (p : Partition) (s : State) : Bool := overflowSum p s ≤ Config.records - p.sum

/-- A staged partition is applied; the sweep pass is the caller's (R60). -/
def putPartition (p : Partition) (s : State) : State :=
  testPoolLow { s with pool := { s.pool with reserves := p, staged := none } }

/-- Step 6 of DOFFING entry, less the sweep (R61). -/
def stagedPartitionTurn (s : State) : State :=
  match s.pool.staged with
  | some p => if p.atDoff && partitionFits p.reserves s then putPartition p.reserves s else s
  | none => s

/-- DOFFING is entered (R140). -/
def enterDoffing (s : State) : State :=
  let s1 := place .ad .doffStart (dropMarks { s with dfs := { s.dfs with parkTimer := none } })
  let s2 := moveDoff .doffing
    { s1 with dfs := { s1.dfs with progress := 0, doffTimer := some s1.dfs.timers.doffTimeout } }
  let s3 := closeForDoff s2
  let cops := copCount s3
  let s4 := addCops cops.1 cops.2 s3
  let s5 : State := { s4 with spindles := s4.spindles.map fun e => { e with build := 0, sinceDoff := 0 } }
  sweep (stagedPartitionTurn (stagedProcessTurn s5))

/-- A PRESENT carriage's parking mark is YES; an ABSENT one takes no part (R138). -/
def carriageParked (c : Carriage) (s : State) : Bool := !present c.agent s || parkMark c s = some true

/-- The wait of R138 is complete. -/
def waitDone (s : State) : Bool :=
  s.dfs.doff = some .called && s.dfs.stopSeen = some true && carriageParked .pc1 s && carriageParked .pc2 s

/-- The sequencer tests the wait (R138). -/
def testWait (s : State) : State := if waitDone s then enterDoffing s else s

/-- Steps 2 to 6 of R143. -/
def completeDoff (s : State) : State :=
  let s1 := addDoffs { s with dfs := { s.dfs with build := 0 } }
  moveDoff .restarting (armGrace (placePresent .release (placeDrive .restartPermit s1)))

/-- The doff state becomes DOFF_FAULT. -/
def faultDoff (c : FaultCause) (s : State) : State := moveDoff (.fault c) s

/-! ## Frame stops (R148 to R151) -/

/-- BUILDING, PRE_DOFF or RESTARTING. -/
def freeDoff (s : State) : Bool :=
  s.dfs.doff = some .building || s.dfs.doff = some .preDoff || s.dfs.doff = some .restarting

/-- A stop with code `k` takes effect, replacing one whose park mark was `parkedBefore` (R148, R150). -/
def stopTakesEffect (k : Nat) (parkedBefore : Bool) (s : State) : State :=
  let owned := s.dfs.doff.any Doff.holds
  let park := (stopAction k s).park && !owned && freeDoff s
  let s1 : State := { s with dfs := { s.dfs with stop := some { code := k, parkMark := park, doffOwned := owned } } }
  if park then (if parkedBefore then s1 else placePresent .parkCall s1)
  else if parkedBefore && freeDoff s then placePresent .release s1
  else s1

/-- The stop ending on this RUNNING report arms the grace (R151). R146 says that a stop in RESTARTING does not arm it again.
That a stop which took effect in RESTARTING and outlasted it (the grace ended on a RAMPING report) does arm it, since R151's
three conditions hold as it ends, is the model's choice (log entry 57). -/
def stopArms (st : Stop) (s : State) : Bool :=
  !st.doffOwned && (stopAction st.code s).graceOnRestart
    && (s.dfs.doff = some .building || s.dfs.doff = some .preDoff)

/-- A stop ends on a RUNNING report (R151). -/
def stopEnds (st : Stop) (s : State) : State :=
  let s1 := if st.parkMark && freeDoff s then placePresent .release s else s
  let s2 := if stopArms st s then armGrace s1 else s1
  { s2 with dfs := { s2.dfs with stop := none } }

/-- A report acts on the stop in force (R148). -/
def stopReport (r : DriveReport) (s : State) : State :=
  match r.run, s.dfs.stop with
  | .stopped, none => stopTakesEffect r.stopCode false s
  | .stopped, some st => if st.code = r.stopCode then s else stopTakesEffect r.stopCode st.parkMark s
  | .ramping, _ => s
  | .running, some st => stopEnds st s
  | .running, none => s

/-- This report arms the grace. -/
def armsGrace (r : DriveReport) (s : State) : Bool :=
  match r.run, s.dfs.stop with
  | .running, some st => stopArms st s
  | _, _ => false

/-- A record is withdrawn from its window with JOB_CANCEL, at no cost (R88). -/
def withdraw (s : State) (r : Nat) : State :=
  match pieceAt r s with
  | some p => requeueQuiet r false (cancelOffer p s)
  | none => s

/-- The records in a window, of either carriage, by number. -/
def windowRecords (s : State) : List Nat :=
  recordsWhere (fun j => match j with
    | .piece p => p.phase.inWindow
    | _ => false) s

/-- A stopped report under a CANCEL code withdraws every open offer (R88, R149). -/
def stopWithdrawal (r : DriveReport) (s : State) : State :=
  if !r.moving && (stopAction r.stopCode s).offers = .cancel then (windowRecords s).foldl withdraw s else s

/-! ## The sequencer's share of a drive report (R131, R134, R138, R145) -/

/-- A running report's pulses join the build counter (R131). -/
def addBuild (pulses : Nat) (s : State) : State :=
  saturated (cutShort max32 s.dfs.build pulses) { s with dfs := { s.dfs with build := sat max32 s.dfs.build pulses } }

/-- A running report counts the grace down; at 0 the grace ends (R145, R146). -/
def countGrace (ms : Nat) (s : State) : State :=
  match s.dfs.grace with
  | none => s
  | some left =>
    if left - ms = 0 then
      let s1 : State := { s with dfs := { s.dfs with grace := none } }
      if s.dfs.doff = some .restarting then moveDoff .building s1 else s1
    else { s with dfs := { s.dfs with grace := some (left - ms) } }

/-- PRE_DOFF is entered, with its call test for every bay (R134, R118). -/
def enterPreDoff (s : State) : State := callTests true allBays (moveDoff .preDoff s)

/-- The threshold test (R134). -/
def thresholdTest (s : State) : State :=
  match s.pcu.inForce with
  | none => s
  | some p =>
    if s.dfs.doff = some .building ∨ s.dfs.doff = some .preDoff then
      if p.target ≤ s.dfs.build then callDoff s
      else if s.dfs.doff = some .building ∧ p.target - p.warn ≤ s.dfs.build then enterPreDoff s
      else s
    else s

/-- The marks of the wait on a report taken in DOFF_CALLED (R138). -/
def waitReport (r : DriveReport) (s : State) : State :=
  testWait { s with dfs := { s.dfs with stopSeen := some (!r.moving) } }

/-- The sequencer's share of a drive report, in the order of R134. That the PARK_CALL or RELEASE of the stop is placed before
the JOB_CANCEL frames of R88, and those before the PARK_CALL of a call, is the model's choice (log entry 51). -/
def doffReport (r : DriveReport) (s : State) : State :=
  let s1 := if r.moving then addBuild r.pulses s else s
  let s2 := stopWithdrawal r (stopReport r s1)
  let s3 := if r.moving && !armsGrace r s1 then countGrace r.interval s2 else s2
  let s4 := thresholdTest s3
  if s.dfs.doff = some .called then waitReport r s4 else s4

/-! ## A whole drive report (R33; log entry 14) -/

/-- What the blocks do with a drive report, in their order. -/
def reportWork (r : DriveReport) (s : State) : State :=
  let exposure := r.interval * producingCount s
  let s1 := ageSections (countReport r s)
  let s2 := if r.moving then consume r.pulses s1 else s1
  let s3 := withPermission (doffReport r) s2
  let s4 := if r.moving then addExposure exposure s3 else s3
  capCheck r.cap s4

/-- A drive report is taken by the commissioned part; where PARK_CALL or RELEASE begins as it is placed, the dispatcher is
told (R103; log entry 58). -/
def takeReport (r : DriveReport) (s : State) : State := telling (reportWork r) s

/-- The grace ends on this report (R145): its count reaches 0 on a running report other than the arming one. -/
def graceEndsOn (r : DriveReport) (s : State) : Bool :=
  r.moving && !armsGrace r s && s.dfs.grace.any fun left => left ≤ r.interval

/-! ## Presence of a carriage (R72, R105, R138, R153) -/

/-- The records of carriage `c`: PIECE records that name it, the unserved ones apart (R65). -/
def PieceRecord.belongs (c : Carriage) (p : PieceRecord) : Bool :=
  p.carriage = c && (match p.phase with
    | .queued unserved _ => !unserved
    | _ => true)

def recordsOf (c : Carriage) (s : State) : List Nat :=
  recordsWhere (fun j => match j with
    | .piece p => p.belongs c
    | _ => false) s

/-- A record of an ABSENT carriage becomes QUEUED without cost (R72, step 1). -/
def recallRecord (s : State) (r : Nat) : State :=
  match pieceAt r s with
  | some p =>
    match p.phase with
    | .queued _ _ => s
    | _ => setState p.spindle (.broken 0) (setPiece r { p with phase := .queued false false } s)
  | none => s

/-- A QUEUED record moves to carriage `d` when its zone holds the spindle (R72, step 2). -/
def moveTo (d : Carriage) (s : State) (r : Nat) : State :=
  match pieceAt r s with
  | some p =>
    if (carriage d s).candidate p.spindle && present d.agent s then
      setPiece r { p with carriage := d, phase := .queued false false } s
    else s
  | none => s

/-- The dispatcher on a carriage reported ABSENT (R72). -/
def carriageRecords (c : Carriage) (s : State) : State :=
  let rs := recordsOf c s
  offerTest c.other (rs.foldl (moveTo c.other) (rs.foldl recallRecord s))

/-- A carriage becomes ABSENT while the part is commissioned: the dispatcher, then the parking wait (R105, R138). -/
def carriageAbsent (c : Carriage) (s : State) : State :=
  let s1 := carriageRecords c s
  if s.dfs.doff = some .called then testWait (setParkMark c none s1) else s1

/-- A carriage becomes PRESENT while the part is commissioned: its offer test, then the hold restated (R105, R153). -/
def carriagePresent (c : Carriage) (s : State) : State :=
  let s1 := offerTest c s
  let s2 := place c.agent (if carriageHold s1 then .parkCall else .release) s1
  if s.dfs.doff = some .called then testWait (setParkMark c (some false) s2) else s2

/-- The transport becomes ABSENT: its request in service returns to WAITING (R127). -/
def transportAbsent (s : State) : State :=
  match (requestList s).find? fun x => x.2.phase.inService with
  | some (r, q) => callTest false q.bay (setRequest r { q with phase := .waiting } s)
  | none => s

/-- What a block does when its agent becomes ABSENT (R105). -/
def ownerAbsent (a : Agent) (s : State) : State :=
  if s.part = .commissioned then
    match a with
    | .pc1 => carriageAbsent .pc1 s
    | .pc2 => carriageAbsent .pc2 s
    | .ad => s
    | .rt => transportAbsent s
  else s

/-- What a block does when its agent becomes PRESENT (R105). -/
def ownerPresent (a : Agent) (s : State) : State :=
  if s.part = .commissioned then
    match a with
    | .pc1 => carriagePresent .pc1 s
    | .pc2 => carriagePresent .pc2 s
    | .ad => s
    | .rt => bayOfferTest s
  else s

end Sys2Proof.Machine
end

