-- ==== Sys2Proof/Machine/Clock.lean ====
section
/-! DEFINITION. The shift clock's operations: the advance of time, the second event and what each block counts by it, the
shift-close test, sub-second steps and trims (chapter 9). -/

namespace Sys2Proof.Machine

/-! ## The advance of time (R172) -/

/-- Steps 1 and 2: seconds rise and carry. -/
def Scs.riseSeconds (c : Scs) : Scs :=
  if 60 ≤ c.seconds + 1 then { c with seconds := 0, minutes := c.minutes + 1 } else { c with seconds := c.seconds + 1 }

/-- Step 3: minutes carry. -/
def Scs.carryMinutes (c : Scs) : Scs :=
  if 60 ≤ c.minutes then { c with minutes := 0, hours := c.hours + 1 } else c

/-- Step 4: hours carry; a day number at its maximum stays there. -/
def Scs.carryHours (c : Scs) : Scs :=
  if 24 ≤ c.hours then { c with hours := 0, day := min max16 (c.day + 1) } else c

/-- Step 4 finds the day number at its maximum. -/
def Scs.dayStuck (c : Scs) : Bool := 24 ≤ c.hours && c.day = max16

/-- The clock takes steps 3 and 4 from `c` on; a day carry at the maximum sets COUNTER_SATURATED (R172). -/
def carryClock (c : Scs) (s : State) : State :=
  saturated c.carryMinutes.dayStuck { s with scs := c.carryMinutes.carryHours }

/-- A second event advances the time of day (R172). -/
def advanceTime (s : State) : State := carryClock s.scs.riseSeconds s

/-- Hours, minutes and seconds all lie in range. -/
def Scs.inRange (c : Scs) : Bool := c.hours < 24 && c.minutes < 60 && c.seconds < 60

/-- Seconds of day (R172). -/
def Scs.secondsOfDay (c : Scs) : Nat := c.hours * 3600 + c.minutes * 60 + c.seconds

/-! ## What the blocks count by a second event (R173) -/

/-- The deadlines and timers of a job record (R78, R126). -/
def JobRecord.counted : JobRecord → JobRecord
  | .piece p => .piece { p with phase := match p.phase with
      | .queued u k => .queued u k
      | .offered t d => .offered t (d - 1)
      | .accepted t d => .accepted t (d - 1)
      | .verifying d => .verifying (d - 1) }
  | .bay q => .bay { q with phase := match q.phase with
      | .waiting => .waiting
      | .offered d => .offered (d - 1)
      | .accepted d => .accepted (d - 1)
      | .refusedWait d => .refusedWait (d - 1) }
  | .hold h => .hold h
  | .notice n => .notice n

/-- A timer loses one second, stopping at 0, where its expiry waits to be taken (log entry 5). -/
def countedTimer (t : Option Nat) : Option Nat := t.map fun n => n - 1

/-- Every timer of the part takes a second event (R78, R104, R126, R139, R142, R161). -/
def countTimers (s : State) : State :=
  { s with
    pool := { s.pool with records := s.pool.records.map fun r => r.map JobRecord.counted }
    slc := { s.slc with presence :=
      { pc1 := countedTimer s.slc.presence.pc1, pc2 := countedTimer s.slc.presence.pc2,
        ad := countedTimer s.slc.presence.ad, rt := countedTimer s.slc.presence.rt } }
    dfs := { s.dfs with parkTimer := countedTimer s.dfs.parkTimer, doffTimer := countedTimer s.dfs.doffTimer }
    sgv := { s.sgv with slotTimer := countedTimer s.sgv.slotTimer } }

/-- The shift index of a start time in use (R180). -/
def startIndex (seconds : Nat) (table : List (Option Nat)) : Option Nat :=
  (table.findIdx? fun t => t = some seconds).map (· + 1)

/-- The shift-close test at the time of day as it stands (R181). -/
def shiftTest (s : State) : State :=
  if s.part = .commissioned && s.scs.valid then
    match startIndex s.scs.secondsOfDay s.scs.shifts with
    | some i =>
      if s.scs.history.any fun r => r.day = s.scs.day && r.index = i then s else closeShift i .clock s
    | none => s
  else s

/-- A full second event (R173). An expiry it brings is a later command (log entry 5), so that its work always comes after a
shift close of the same event (R181): the model's choice (log entry 53). -/
def secondEvent (s : State) : State := shiftTest (countTimers (advanceTime s))

/-! ## Trims (R176 to R178) -/

/-- TRIM_DONE outcomes (12.2). -/
def trimApplied : Int := 0
def trimImmediate : Int := 1
def trimAbsorbed : Int := 2
def trimDiscarded : Int := 3

def setTrim (t : Trim) (s : State) : State := { s with scs := { s.scs with trim := t } }

def setSub (n : Nat) (s : State) : State := { s with scs := { s.scs with sub := n } }

/-- The trim is complete with this outcome. -/
def endTrim (cv outcome : Int) (s : State) : State := raise .trimDone [cv, outcome] (setTrim .none s)

/-- The sub-second count wraps: a second event, or the absorbing of an owed one (R172, R178). -/
def wrapSub (s : State) : State :=
  match s.scs.trim with
  | .owing cv => endTrim cv trimAbsorbed (setSub 0 s)
  | _ => secondEvent (setSub 0 s)

/-- What a sub-second step comes to: the state, and whether it made or absorbed a second event. -/
structure Stepped where
  state : State
  event : Bool

/-- A step's own advance (R172). -/
def advanceSub (s : State) : Stepped :=
  if s.scs.sub + 1 < 256 then { state := setSub (s.scs.sub + 1) s, event := false }
  else { state := wrapSub s, event := true }

/-- A waiting trim is added to the count (R177). -/
def applyTrim (cv : Int) (s : State) : Stepped :=
  let sum : Int := (s.scs.sub : Int) + cv
  if sum < 0 then { state := setTrim (.owing cv) (setSub (sum + 256).toNat s), event := false }
  else if sum < 256 then { state := endTrim cv trimApplied (setSub sum.toNat s), event := false }
  else { state := endTrim cv trimImmediate (secondEvent (setSub (sum - 256).toNat s)), event := true }

/-- A sub-second step (R172, R177). -/
def subStep (s : State) : Stepped :=
  let one := advanceSub s
  match s.scs.trim with
  | .waiting cv =>
    let two := applyTrim cv one.state
    { state := two.state, event := one.event || two.event }
  | _ => one

/-- The sub-second steps up to and including the next that makes or absorbs a second event (log entry 4): a waiting trim
is applied at the first of them, and the others only count. -/
def nextSecond (s : State) : State :=
  match s.scs.trim with
  | .waiting _ =>
    let one := subStep s
    if one.event then one.state else (subStep (setSub 255 one.state)).state
  | _ => (subStep (setSub 255 s)).state

/-- An owed tick is discarded (R178). -/
def discardOwed (s : State) : State :=
  match s.scs.trim with
  | .owing cv => endTrim cv trimDiscarded s
  | _ => s

end Sys2Proof.Machine
end

