-- ==== Sys2Proof/Machine/Lamps.lean ====
section
/-! DEFINITION. The lamp column: indications, the choice of patterns, blink phases and the lamp outputs (R207). -/

namespace Sys2Proof.Machine

/-- A QUEUED record, unserved ones included (R207). -/
def JobRecord.isQueued : JobRecord → Bool
  | .piece p => match p.phase with
    | .queued _ _ => true
    | _ => false
  | _ => false

/-- PIECE records that are QUEUED. -/
def queuedCount (s : State) : Nat := s.pool.records.countP fun r => r.any JobRecord.isQueued

/-- The position of a spindle that is not BLANKED is OVERRUN (R129). -/
def Spindle.overrun (e : Spindle) : Bool := !e.state.isBlanked && e.roving.any fun r => r.mark = .overrun

/-- The indication holds (R207, R129, R133). -/
def Indication.holds (i : Indication) (s : State) : Bool :=
  match i with
  | .queued n => n ≤ queuedCount s
  | .unlisted => isLive .unlistedPresent s
  | .lockedThisShift => s.mfh.lockedThisShift
  | .overrun => s.spindles.any Spindle.overrun
  | .urgent => (requestList s).any fun x => x.2.urgent
  | .opened => !(requestList s).isEmpty
  | .preDoff => s.dfs.doff = some .preDoff
  | .calledOrDoffing => s.dfs.doff = some .called || s.dfs.doff = some .doffing
  | .fault => s.dfs.doff.any fun d => d.code = 5

/-- The pattern of the first item whose indication holds, OFF when none holds or the part is UNCONFIGURED (R207). -/
def chosen (items : List LampItem) (s : State) : Pattern :=
  if s.part = .commissioned then
    match items.find? fun i => i.indication.holds s with
    | some i => i.pattern
    | none => .off
  else .off

/-- A pattern at the beginning of its on part. -/
def LampTable.begun (t : LampTable) : Pattern → LampPhase
  | .off => .dark
  | .steady => { pattern := .steady, on := true, units := 0 }
  | .blink1 => { pattern := .blink1, on := true, units := t.blink1.on }
  | .blink2 => { pattern := .blink2, on := true, units := t.blink2.on }

/-- A lamp takes a pattern; its phase starts again when the pattern changes. -/
def LampTable.shown (t : LampTable) (p : Pattern) (old : LampPhase) : LampPhase :=
  if old.pattern = p then old else t.begun p

/-- The lamps choose their patterns afresh. -/
def refreshLamps (s : State) : State :=
  let t := s.mfh.lampTable
  { s with mfh := { s.mfh with lamps :=
      { brk := t.shown (chosen t.brk s) s.mfh.lamps.brk, roving := t.shown (chosen t.roving s) s.mfh.lamps.roving,
        doff := t.shown (chosen t.doff s) s.mfh.lamps.doff } } }

/-- The on or off length of a blink runs out: the lamp toggles. -/
def LampTable.toggled (t : LampTable) (p : LampPhase) : LampPhase :=
  match p.pattern with
  | .blink1 => { p with on := !p.on, units := if p.on then t.blink1.off else t.blink1.on }
  | .blink2 => { p with on := !p.on, units := if p.on then t.blink2.off else t.blink2.on }
  | .off | .steady => p

def modLamps (f : Lamps → Lamps) (s : State) : State := { s with mfh := { s.mfh with lamps := f s.mfh.lamps } }

/-- The blink phase of a lamp ends (R207). -/
def toggleLamp (l : Lamp) (s : State) : State :=
  let t := s.mfh.lampTable
  modLamps (fun x => match l with
    | .brk => { x with brk := t.toggled x.brk }
    | .roving => { x with roving := t.toggled x.roving }
    | .doff => { x with doff := t.toggled x.doff }) s

/-- A lamp that shows a blink whose lengths changed from table `old` starts its phase again (R207). -/
def LampTable.restarted (old new : LampTable) (p : LampPhase) : LampPhase :=
  match p.pattern with
  | .blink1 => if old.blink1 = new.blink1 then p else new.begun .blink1
  | .blink2 => if old.blink2 = new.blink2 then p else new.begun .blink2
  | .off | .steady => p

def Lamps.get (l : Lamps) : Lamp → LampPhase
  | .brk => l.brk
  | .roving => l.roving
  | .doff => l.doff

/-- The lamp output drives its lamp (00_scope section 7). -/
def lampOutput (l : Lamp) (s : State) : Bool := (s.mfh.lamps.get l).pattern ≠ .off && (s.mfh.lamps.get l).on

/-- A command's work is done: the lamps choose, and the part goes on (log entry 8). -/
def finish (s : State) : Host.Outcome State Fault Refusal := .next (refreshLamps s)

end Sys2Proof.Machine
end

