-- ==== Sys2Proof/Machine/Tables.lean ====
section
/-! DEFINITION. The fifteen tables as the supervisor sees them: their entries byte for byte, the checks of a write, and
what an accepted write does (R200, 12.5, and the owning rules). -/

namespace Sys2Proof.Machine

/-! ## Response codes and tables -/

/-- The response codes (R199). -/
inductive RCode where
  | ok | clamped | badTable | badIndex | badValue | busy | refused | poolBusy | noRoute | notCommissioned
  deriving DecidableEq, Repr

def RCode.code : RCode → Nat
  | .ok => 0
  | .clamped => 1
  | .badTable => 2
  | .badIndex => 3
  | .badValue => 4
  | .busy => 5
  | .refused => 6
  | .poolBusy => 7
  | .noRoute => 8
  | .notCommissioned => 9

/-- The fifteen tables (R200). -/
inductive Table where
  | sectionTable | spindle | carriage | process | detection | marks | doffTimers | stopAction | governor | speedSteps | shift
  | serviceLine | partition | noticeMask | lamp
  deriving DecidableEq, Repr

/-- Table ids (12.5). -/
def Table.id : Table → Nat
  | .sectionTable => 1
  | .spindle => 2
  | .carriage => 3
  | .process => 4
  | .detection => 5
  | .marks => 6
  | .doffTimers => 7
  | .stopAction => 8
  | .governor => 9
  | .speedSteps => 10
  | .shift => 11
  | .serviceLine => 12
  | .partition => 13
  | .noticeMask => 14
  | .lamp => 15

def allTables : List Table :=
  [.sectionTable, .spindle, .carriage, .process, .detection, .marks, .doffTimers, .stopAction, .governor, .speedSteps,
   .shift, .serviceLine, .partition, .noticeMask, .lamp]

/-- The table an id names. -/
def Table.ofId? (id : Nat) : Option Table := allTables.find? fun t => t.id = id

/-- Index of the first entry (R200). -/
def Table.base : Table → Nat
  | .sectionTable | .spindle | .carriage | .shift => 1
  | _ => 0

/-- Entries (R200). -/
def Table.count : Table → Nat
  | .sectionTable => 72
  | .spindle => 1728
  | .carriage => 2
  | .stopAction | .speedSteps => 8
  | .shift | .lamp => 4
  | _ => 1

/-- Bytes of an entry (12.5). -/
def Table.size : Table → Nat
  | .sectionTable | .spindle | .speedSteps | .noticeMask => 2
  | .carriage | .marks | .partition => 9
  | .process => 18
  | .detection => 8
  | .doffTimers => 5
  | .stopAction | .shift => 4
  | .governor => 12
  | .serviceLine => 3
  | .lamp => 17

/-- The index past the last entry. -/
def Table.limit (t : Table) : Nat := t.base + t.count

/-! ## Entries as bytes, and their checks (12.5) -/

/-- The value, if it lies from `lo` to `hi`. -/
def ranged (lo hi v : Nat) : Option Nat := if lo ≤ v ∧ v ≤ hi then some v else none

structure SectionEntry where
  enabled : Bool
  mode : ForwardMode
  deriving DecidableEq, Repr

/-- R1. -/
def parseSection (e : List Byte) : Option SectionEntry := do
  let enabled ← yesNo? (byteAt e 0)
  let mode ← ForwardMode.ofCode? (byteAt e 1)
  some { enabled, mode }

structure SpindleEntry where
  inUse : Bool
  clampFitted : Bool
  deriving DecidableEq, Repr

/-- R4. -/
def parseSpindle (e : List Byte) : Option SpindleEntry := do
  let inUse ← yesNo? (byteAt e 0)
  let clampFitted ← yesNo? (byteAt e 1)
  some { inUse, clampFitted }

structure CarriageEntry where
  zone : Zone
  acceptTimeout : Nat
  resultTimeout : Nat
  maxAttempts : Nat
  enabled : Bool
  deriving DecidableEq, Repr

/-- R66. -/
def parseCarriage (e : List Byte) : Option CarriageEntry := do
  let first ← ranged 1 1728 (fieldAt e 0 2)
  let last ← ranged first 1728 (fieldAt e 2 2)
  let acceptTimeout ← ranged 1 10 (byteAt e 4)
  let resultTimeout ← ranged 10 600 (fieldAt e 5 2)
  let maxAttempts ← ranged 1 7 (byteAt e 7)
  let enabled ← yesNo? (byteAt e 8)
  some { zone := { first, last }, acceptTimeout, resultTimeout, maxAttempts, enabled }

/-- R38; a full_cop of 0 is taken as 900. -/
def parseProcess (e : List Byte) : Option ProcessTable := do
  let pulseLength ← ranged 10000 999999 (fieldAt e 0 4)
  let contraction ← ranged 0 150 (fieldAt e 4 2)
  let draft ← ranged 1000 8000 (fieldAt e 6 2)
  let centitex ← ranged 300 20000 (fieldAt e 8 2)
  let rovingLength ← ranged 200 4000 (fieldAt e 10 2)
  let copTarget ← ranged 500 50000 (fieldAt e 12 2)
  let warnMargin ← ranged 0 (copTarget - 1) (fieldAt e 14 2)
  let fullCop ← ranged 500 1000 (if fieldAt e 16 2 = 0 then 900 else fieldAt e 16 2)
  let t : ProcessTable :=
    { pulseLength, contraction, draft, centitex, rovingLength, copTarget, warnMargin, fullCop }
  if t.target ≤ max32 then some t else none

/-- R7. -/
def parseDetection (e : List Byte) : Option Detection := do
  let breakFloor ← ranged 100 900 (fieldAt e 0 2)
  let slipFloor ← ranged (max 100 breakFloor) 1000 (fieldAt e 2 2)
  let confirmCount ← ranged 1 4 (byteAt e 4)
  let healConfirm ← ranged 1 4 (byteAt e 5)
  let rogueLimit ← ranged 0 63 (byteAt e 6)
  let silenceLimit ← ranged 4 64 (byteAt e 7)
  some { breakFloor, slipFloor, confirmCount, healConfirm, rogueLimit, silenceLimit }

/-- R111. -/
def parseMarks (e : List Byte) : Option RovingMarks := do
  let lowMark ← ranged 1 500 (fieldAt e 0 2)
  let predoffMark ← ranged 1 1000 (fieldAt e 2 2)
  let batchCount ← ranged 1 24 (byteAt e 4)
  let retryDelay ← ranged 10 600 (fieldAt e 5 2)
  let bayTimeout ← ranged 60 1800 (fieldAt e 7 2)
  some { lowMark, predoffMark, batchCount, retryDelay, bayTimeout }

/-- R132. -/
def parseDoffTimers (e : List Byte) : Option DoffTimers := do
  let parkTimeout ← ranged 10 300 (fieldAt e 0 2)
  let doffTimeout ← ranged 60 1800 (fieldAt e 2 2)
  let grace ← ranged 0 120 (byteAt e 4)
  some { parkTimeout, doffTimeout, grace }

/-- R147; carriage policy STAY is 0 and PARK is 1. -/
def parseStopAction (e : List Byte) : Option StopAction := do
  let downtimeClass ← ranged 0 3 (byteAt e 0)
  let offers ← OfferPolicy.ofCode? (byteAt e 1)
  let park ← yesNo? (byteAt e 2)
  let graceOnRestart ← yesNo? (byteAt e 3)
  some { downtimeClass, offers, park, graceOnRestart }

/-- R162. -/
def parseGovernor (e : List Byte) : Option GovernorTable := do
  let slotLen ← ranged 30 600 (fieldAt e 0 2)
  let minExposure ← ranged 10000 10000000 (fieldAt e 2 4)
  let rateLimit ← ranged 1 9999 (fieldAt e 6 2)
  let hysteresis ← ranged 0 (rateLimit - 1) (fieldAt e 8 2)
  let entryStep ← ranged 0 6 (byteAt e 10)
  let floorStep ← ranged 0 entryStep (byteAt e 11)
  some { slotLen, minExposure, rateLimit, hysteresis, entryStep, floorStep }

/-- R166. -/
def parseSpeedStep (e : List Byte) : Option Nat := ranged 0 30000 (fieldAt e 0 2)

/-- A shift entry that means unused (12.5). -/
def unusedShift : Nat := 4294967295

/-- R180. -/
def parseShift (e : List Byte) : Option (Option Nat) :=
  if fieldAt e 0 4 = unusedShift then some none else (ranged 0 86399 (fieldAt e 0 4)).map some

/-- R93. -/
def parseServiceLine (e : List Byte) : Option ServiceTable := do
  let gapPart ← ranged 2 20 (byteAt e 0)
  let levelThreshold ← ranged 1 19 (byteAt e 1)
  let agentSilence ← ranged 2 60 (byteAt e 2)
  some { gapPart, levelThreshold, agentSilence }

/-- R59. -/
def parsePartition (e : List Byte) : Option StagedPartition := do
  let piece ← ranged 1 508 (fieldAt e 0 2)
  let hold ← ranged 1 508 (fieldAt e 2 2)
  let bay ← ranged 1 508 (fieldAt e 4 2)
  let notice ← ranged 1 508 (fieldAt e 6 2)
  let atDoff ← yesNo? (byteAt e 8)
  let reserves : Partition := { piece, hold, bay, notice }
  if reserves.sum ≤ 512 then some { reserves, atDoff } else none

/-- R205: the two bits above the fourteen are ignored. -/
def parseMask (e : List Byte) : List Bool := (List.range 14).map fun k => (fieldAt e 0 2).testBit k

/-- An indication code of a lamp (R207, 12.5); N is read only in QUEUED. -/
def lampIndication (lamp : Lamp) (code n : Nat) : Option Indication :=
  match lamp with
  | .brk =>
    if code = 0 then (ranged 1 1728 n).map .queued
    else if code = 1 then some .unlisted
    else if code = 2 then some .lockedThisShift
    else none
  | .roving =>
    if code = 3 then some .overrun else if code = 4 then some .urgent else if code = 5 then some .opened else none
  | .doff =>
    if code = 6 then some .preDoff else if code = 7 then some .calledOrDoffing else if code = 8 then some .fault
    else none

/-- Item `i` of a lamp entry. -/
def lampItem (lamp : Lamp) (e : List Byte) (i : Nat) : Option LampItem := do
  let indication ← lampIndication lamp (byteAt e (1 + 4 * i)) (fieldAt e (2 + 4 * i) 2)
  let pattern ← Pattern.ofCode? (byteAt e (4 + 4 * i))
  some { indication, pattern }

/-- Every entry of a list, or none when one is none. -/
def allSome {α : Type} : List (Option α) → Option (List α)
  | [] => some []
  | none :: _ => none
  | some a :: rest => (allSome rest).map fun l => a :: l

/-- An entry of the lamp table (R207). -/
inductive LampEntry where
  | items (lamp : Lamp) (l : List LampItem)
  | blinks (blink1 blink2 : Blink)
  deriving DecidableEq, Repr

/-- The items of a lamp entry, those within its count (R207). -/
def parseItems (lamp : Lamp) (e : List Byte) : Option LampEntry := do
  let count ← ranged 0 4 (byteAt e 0)
  let l ← allSome ((List.range count).map (lampItem lamp e))
  some (.items lamp l)

/-- The two blink patterns (R207). -/
def parseBlinks (e : List Byte) : Option LampEntry := do
  let on1 ← ranged 1 64 (byteAt e 0)
  let off1 ← ranged 1 64 (byteAt e 1)
  let on2 ← ranged 1 64 (byteAt e 2)
  let off2 ← ranged 1 64 (byteAt e 3)
  some (.blinks { on := on1, off := off1 } { on := on2, off := off2 })

/-- Entry `i` of the lamp table (R207). -/
def parseLamp (i : Nat) (e : List Byte) : Option LampEntry :=
  if i = 0 then parseItems .brk e
  else if i = 1 then parseItems .roving e
  else if i = 2 then parseItems .doff e
  else parseBlinks e

/-! ## Runs of entries (R200) -/

/-- What a management frame comes to: the payload of its response, and the state. -/
structure Reply where
  payload : List Byte
  state : State
  deriving DecidableEq, Repr

/-- The response to a TABLE_WRITE, a COMMAND or a FORWARD: the code and a detail (12.4). -/
def Reply.simple (c : RCode) (detail : Nat) (s : State) : Reply := { payload := b1 c.code ++ b1 detail, state := s }

/-- Nothing changes. -/
def Reply.fail (c : RCode) (s : State) : Reply := .simple c 0 s

/-- Executed. -/
def Reply.ok (s : State) : Reply := .simple .ok 0 s

/-- The first `n` entries of `size` bytes each. -/
def chunks (size : Nat) : Nat → List Byte → List (List Byte)
  | 0, _ => []
  | n + 1, l => l.take size :: chunks size n (l.drop size)

/-- Entries read one by one from index `i` on. -/
def parseRun {α : Type} (parse : Nat → List Byte → Option α) (i : Nat) (l : List (List Byte)) : Option (List α) :=
  allSome (mapFrom parse i l)

/-- A TABLE_WRITE of table `t`: its run is checked whole, and an accepted run is handed to `effect` with its start index
(R200; the order of the tests is log entry 22). -/
def writeTable {α : Type} (t : Table) (parse : Nat → List Byte → Option α)
    (effect : Nat → List α → State → Reply) (f : LineFrame) (s : State) : Reply :=
  let run := f.payload.drop 3
  let start := fieldAt f.payload 1 2
  let n := run.length / t.size
  if f.payload.length < 3 then .fail .badValue s
  else if start < t.base ∨ t.limit ≤ start ∨ t.limit < start + n then .fail .badIndex s
  else if run.length % t.size ≠ 0 then .fail .badValue s
  else match parseRun parse start (chunks t.size n run) with
    | none => .fail .badValue s
    | some l => effect start l s

/-- An accepted write takes effect entry by entry in ascending index (R200). -/
def eachEntry {α : Type} (f : Nat → α → State → State) : Nat → List α → State → State
  | _, [], s => s
  | i, a :: rest, s => eachEntry f (i + 1) rest (f i a s)

/-- A list with entry `i` and those after it replaced by a run. -/
def overwrite {α : Type} (old : List α) (i : Nat) (run : List α) : List α :=
  old.take i ++ run ++ old.drop (i + run.length)

/-! ## Effects of accepted writes -/

/-- R1. -/
def writeSection (b : Nat) (e : SectionEntry) (s : State) : State :=
  modSection b (fun x => { x with enabled := e.enabled, mode := e.mode }) s

/-- R4, R24. -/
def writeSpindle (n : Nat) (e : SpindleEntry) (s : State) : State :=
  let s1 := modSpindle n (fun x => { x with inUse := e.inUse, clampFitted := e.clampFitted }) s
  if s.part = .commissioned then
    if e.inUse then (if (spindle n s).state.isBlanked then unblank n s1 else s1)
    else (if (spindle n s).state.isBlanked then s1 else blank n s1)
  else s1

/-- A record of a disabled carriage's window is withdrawn (R71, step 1). -/
def withdrawHere (s : State) (r : Nat) : State :=
  match pieceAt r s with
  | some p =>
    if p.phase.inWindow then
      setState p.spindle (.broken 0) (setPiece r { p with phase := .queued false false } (cancelOffer p s))
    else s
  | none => s

/-- A QUEUED record of the changed carriage `c` is tested: it moves to `d` or becomes unserved (R71, step 2). -/
def testZone (c d : Carriage) (s : State) (r : Nat) : State :=
  match pieceAt r s with
  | some p =>
    match p.phase with
    | .queued _ _ =>
      if (carriage c s).candidate p.spindle then s
      else if (carriage d s).candidate p.spindle then
        setPiece r { p with carriage := d, phase := .queued false false } s
      else setPiece r { p with carriage := .pc1, phase := .queued true false } s
    | _ => s
  | none => s

/-- The unserved records, by number (R65). -/
def unservedRecords (s : State) : List Nat :=
  recordsWhere (fun j => match j with
    | .piece p => (match p.phase with
      | .queued unserved _ => unserved
      | _ => false)
    | _ => false) s

/-- A change of the zone or the enabled field of carriage `c` (R71). -/
def changeZone (c : Carriage) (wasEnabled : Bool) (s : State) : State :=
  let s1 := if wasEnabled && !(carriage c s).enabled then (recordsOf c s).foldl withdrawHere s else s
  let s2 := (recordsOf c s1).foldl (testZone c c.other) s1
  (unservedRecords s2).foldl (fun s r => assignQuiet r s) s2

/-- The entry as the carriage holds it. -/
def CarriageUnit.takes (u : CarriageUnit) (e : CarriageEntry) : CarriageUnit :=
  { u with zone := some e.zone, acceptTimeout := e.acceptTimeout, resultTimeout := e.resultTimeout,
           maxAttempts := e.maxAttempts, enabled := e.enabled }

/-- R66, R71, R76. -/
def writeCarriage (i : Nat) (e : CarriageEntry) (s : State) : State :=
  let c : Carriage := if i = 1 then .pc1 else .pc2
  let old := carriage c s
  let s1 := modCarriage c (fun u => u.takes e) s
  if s.part = .commissioned then
    offerTests (if old.zone = some e.zone ∧ old.enabled = e.enabled then s1 else changeZone c old.enabled s1)
  else s1

/-- R39: the written table is staged, and the answer is CLAMPED when its budget had to be. -/
def stageProcess (l : List ProcessTable) (s : State) : Reply :=
  match l with
  | [t] => .simple (if max32 < t.rawBudget then .clamped else .ok) 0 { s with pcu := { s.pcu with staged := some t } }
  | _ => .ok s

def writeDetection (e : Detection) (s : State) : State := { s with detection := e }

/-- R111. -/
def writeMarks (e : RovingMarks) (s : State) : State :=
  let s1 : State := { s with rvm := { s.rvm with marks := e } }
  if s.part = .commissioned then callTests false allBays (redraw (fun _ left => left) s1) else s1

def writeDoffTimers (e : DoffTimers) (s : State) : State := { s with dfs := { s.dfs with timers := e } }

def writeStopAction (i : Nat) (e : StopAction) (s : State) : State :=
  { s with dfs := { s.dfs with stops := s.dfs.stops.set i e } }

def writeGovernor (e : GovernorTable) (s : State) : State := { s with sgv := { s.sgv with table := e } }

/-- No entry below the one before it (R166). -/
def nonDecreasing : List Nat → Bool
  | a :: b :: rest => a ≤ b && nonDecreasing (b :: rest)
  | _ => true

/-- R166, R167: a commissioned part refuses a write that would leave the table out of order, and sends the cap again when
the speed of its step changes. -/
def writeSpeedSteps (start : Nat) (l : List Nat) (s : State) : Reply :=
  let steps := overwrite s.sgv.steps start l
  let s1 : State := { s with sgv := { s.sgv with steps := steps } }
  if s.part = .commissioned then
    if !nonDecreasing steps then .fail .badValue s
    else .ok (if stepSpeed (effectiveCap s) s = stepSpeed (effectiveCap s) s1 then s1 else sendCap s1)
  else .ok s1

/-- The entries in use form a strictly rising run from entry 1 (R180): none in use follows an unused one. -/
def strictlyRising : List (Option Nat) → Bool
  | some a :: some b :: rest => a < b && strictlyRising (some b :: rest)
  | some _ :: none :: rest => rest.all Option.isNone
  | [some _] => true
  | none :: _ => false
  | [] => false

/-- R180. -/
def writeShift (start : Nat) (l : List (Option Nat)) (s : State) : Reply :=
  let shifts := overwrite s.scs.shifts (start - 1) l
  if s.part = .commissioned && !strictlyRising shifts then .fail .badValue s
  else .ok { s with scs := { s.scs with shifts := shifts } }

/-- R93: SLC_LEVEL is tested, and a frame held under the old gap may begin (R95). -/
def writeServiceLine (e : ServiceTable) (s : State) : State :=
  serviceTurn (testLevel { s with slc := { s.slc with table := e } })

/-- R59. -/
def stagePartition (e : StagedPartition) (s : State) : State := { s with pool := { s.pool with staged := some e } }

def writeMask (e : List Bool) (s : State) : State := { s with mfh := { s.mfh with mask := e } }

/-- R207. -/
def writeLamp (e : LampEntry) (s : State) : State :=
  let old := s.mfh.lampTable
  match e with
  | .items .brk l => { s with mfh := { s.mfh with lampTable := { old with brk := l } } }
  | .items .roving l => { s with mfh := { s.mfh with lampTable := { old with roving := l } } }
  | .items .doff l => { s with mfh := { s.mfh with lampTable := { old with doff := l } } }
  | .blinks x y =>
    let new : LampTable := { old with blink1 := x, blink2 := y }
    modLamps (fun m => { brk := old.restarted new m.brk, roving := old.restarted new m.roving,
                         doff := old.restarted new m.doff })
      { s with mfh := { s.mfh with lampTable := new } }

/-! ## Reading entries (R200, 12.5) -/

def sectionBytes (e : Section) : List Byte := b1 (yesNo e.enabled) ++ b1 e.mode.code

def spindleBytes (e : Spindle) : List Byte := b1 (yesNo e.inUse) ++ b1 (yesNo e.clampFitted)

/-- An entry not yet holding a zone is read with zone 0 to 0 (R66). -/
def carriageBytes (u : CarriageUnit) : List Byte :=
  (match u.zone with
    | some z => be 2 z.first ++ be 2 z.last
    | none => be 4 0)
    ++ b1 u.acceptTimeout ++ be 2 u.resultTimeout ++ b1 u.maxAttempts ++ b1 (yesNo u.enabled)

def processBytes (t : ProcessTable) : List Byte :=
  be 4 t.pulseLength ++ be 2 t.contraction ++ be 2 t.draft ++ be 2 t.centitex ++ be 2 t.rovingLength
    ++ be 2 t.copTarget ++ be 2 t.warnMargin ++ be 2 t.fullCop

def detectionBytes (t : Detection) : List Byte :=
  be 2 t.breakFloor ++ be 2 t.slipFloor ++ b1 t.confirmCount ++ b1 t.healConfirm ++ b1 t.rogueLimit
    ++ b1 t.silenceLimit

def marksBytes (t : RovingMarks) : List Byte :=
  be 2 t.lowMark ++ be 2 t.predoffMark ++ b1 t.batchCount ++ be 2 t.retryDelay ++ be 2 t.bayTimeout

def doffTimersBytes (t : DoffTimers) : List Byte := be 2 t.parkTimeout ++ be 2 t.doffTimeout ++ b1 t.grace

def stopActionBytes (t : StopAction) : List Byte :=
  b1 t.downtimeClass ++ b1 t.offers.code ++ b1 (yesNo t.park) ++ b1 (yesNo t.graceOnRestart)

def governorBytes (t : GovernorTable) : List Byte :=
  be 2 t.slotLen ++ be 4 t.minExposure ++ be 2 t.rateLimit ++ be 2 t.hysteresis ++ b1 t.entryStep ++ b1 t.floorStep

def shiftBytes (t : Option Nat) : List Byte := be 4 (t.getD unusedShift)

def serviceLineBytes (t : ServiceTable) : List Byte := b1 t.gapPart ++ b1 t.levelThreshold ++ b1 t.agentSilence

def partitionBytes (p : StagedPartition) : List Byte :=
  be 2 p.reserves.piece ++ be 2 p.reserves.hold ++ be 2 p.reserves.bay ++ be 2 p.reserves.notice
    ++ b1 (yesNo p.atDoff)

/-- The mask as a number, bit k for notice kind k. -/
def maskValue : List Bool → Nat
  | [] => 0
  | b :: rest => yesNo b + 2 * maskValue rest

/-- An item; N reads 0 where it is no QUEUED item (log entry 24). -/
def lampItemBytes (i : LampItem) : List Byte :=
  b1 i.indication.code ++ be 2 (match i.indication with
    | .queued n => n
    | _ => 0) ++ b1 i.pattern.code

/-- Entries 0 to 2 of the lamp table: unused items read 0. -/
def lampItemsBytes (l : List LampItem) : List Byte :=
  (b1 l.length ++ l.flatMap lampItemBytes ++ be 16 0).take 17

def lampBytes (i : Nat) (t : LampTable) : List Byte :=
  if i = 0 then lampItemsBytes t.brk
  else if i = 1 then lampItemsBytes t.roving
  else if i = 2 then lampItemsBytes t.doff
  else b1 t.blink1.on ++ b1 t.blink1.off ++ b1 t.blink2.on ++ b1 t.blink2.off ++ be 13 0

/-- The process table as it is read: staged, else in force, else all 0 (R39). -/
def processRead (s : State) : List Byte :=
  match s.pcu.staged, s.pcu.inForce with
  | some t, _ => processBytes t
  | none, some p => processBytes p.table
  | none, none => be 18 0

/-- The partition table as it is read: staged, else in force with the flag NO (R59). -/
def partitionRead (s : State) : List Byte :=
  partitionBytes (s.pool.staged.getD { reserves := s.pool.reserves, atDoff := false })

/-- Entry `i` of a table, by its own index. -/
def Table.entry (t : Table) (i : Nat) (s : State) : List Byte :=
  match t with
  | .sectionTable => sectionBytes (sectionAt i s)
  | .spindle => spindleBytes (Machine.spindle i s)
  | .carriage => carriageBytes (Machine.carriage (if i = 1 then .pc1 else .pc2) s)
  | .process => processRead s
  | .detection => detectionBytes s.detection
  | .marks => marksBytes s.rvm.marks
  | .doffTimers => doffTimersBytes s.dfs.timers
  | .stopAction => stopActionBytes (Machine.stopAction i s)
  | .governor => governorBytes s.sgv.table
  | .speedSteps => be 2 (stepSpeed i s)
  | .shift => shiftBytes (s.scs.shifts.getD (i - 1) none)
  | .serviceLine => serviceLineBytes s.slc.table
  | .partition => partitionRead s
  | .noticeMask => be 2 (maskValue s.mfh.mask)
  | .lamp => lampBytes i s.mfh.lampTable

/-- The mark of a TABLE_READ: 1 for staged, 0 otherwise (12.4). -/
def Table.mark (t : Table) (s : State) : Nat :=
  match t with
  | .process => yesNo s.pcu.staged.isSome
  | .partition => yesNo s.pool.staged.isSome
  | _ => 0

end Sys2Proof.Machine
end

