-- ==== Sys2Proof/Machine/Reads.lean ====
section
/-! DEFINITION. The read-outs: TABLE_READ, the six selectors of COUNTS_READ, and STATUS_READ (R200, R201, 12.4). -/

namespace Sys2Proof.Machine

/-! ## Free bytes of a read-out (log entry 11) -/

/-- `width` bytes the spec gives no value for, at a place `k` of their own in this read-out. -/
def freeBytes (k width : Nat) (s : State) : List Byte :=
  (List.range width).map fun i => Config.freeByte (s.freeCount + k + i)

/-- Places of the fields that may be free. -/
def fTarget : Nat := 0
def fWarn : Nat := 4
def fBuild : Nat := 8
def fDoff : Nat := 12
def fSlotTimer : Nat := 13
def fWindowBreaks : Nat := 15
def fWindowExposure : Nat := 17
def fTrim : Nat := 23
def fNext : Nat := 24
def fEcho : Nat := 26
def fStaged : Nat := 27
def fBudget : Nat := 35

/-- A read-out has used its free bytes. -/
def spendFree (s : State) : State := { s with freeCount := s.freeCount + 64 }

/-! ## Framing (R201) -/

/-- End mark of a table read and of an item read. -/
def endMark : List Byte := absent 2

/-- As many whole items as fit in `room` bytes. -/
def fitting : Nat → List (List Byte) → List (List Byte)
  | _, [] => []
  | room, x :: rest => if x.length ≤ room then x :: fitting (room - x.length) rest else []

/-- The answer to a COUNTS_READ or STATUS_READ from item `start` on, of all the items `items`. -/
def answerItems (selector start : Nat) (items : List (List Byte)) (s : State) : Reply :=
  let taken := fitting 56 (items.drop start)
  let next := start + taken.length
  { payload := b1 RCode.ok.code ++ b1 selector ++ (if items.length ≤ next then endMark else be 2 next) ++ taken.flatten
    state := spendFree s }

/-- A read refused: the code, the selector named, and a next item that the spec leaves open. -/
def refuseItems (c : RCode) (selector : List Byte) (s : State) : Reply :=
  { payload := b1 c.code ++ selector ++ freeBytes fNext 2 s, state := spendFree s }

/-- Start item of a COUNTS_READ. -/
def readStart (f : LineFrame) : Nat := fieldAt f.payload 5 2
def readFirst (f : LineFrame) : Nat := fieldAt f.payload 1 2
def readLast (f : LineFrame) : Nat := fieldAt f.payload 3 2

/-- Selector codes (12.2). -/
def selFrameLive : Nat := 0
def selSpindleLive : Nat := 1
def selSpindlePrev : Nat := 2
def selHistory : Nat := 3
def selRoving : Nat := 4
def selRecords : Nat := 5

/-- A COUNTS_READ answered from `items`, an item beyond the last refused (R201). -/
def readItems (selector : Nat) (f : LineFrame) (items : List (List Byte)) (s : State) : Reply :=
  if f.payload.length < 7 then refuseItems .badValue (b1 selector) s
  else if items.length ≤ readStart f then refuseItems .badIndex (b1 selector) s
  else answerItems selector (readStart f) items s

/-- A range read: the tests of R201, then one item for each number of the range, the item at `i` from its number. -/
def readRange (selector : Nat) (f : LineFrame) (item : Nat → List Byte) (s : State) : Reply :=
  if f.payload.length < 7 then refuseItems .badValue (b1 selector) s
  else if readLast f < readFirst f ∨ readFirst f < 1 ∨ 1728 < readLast f then refuseItems .badIndex (b1 selector) s
  else if readLast f - readFirst f < readStart f then refuseItems .badIndex (b1 selector) s
  else answerItems selector (readStart f)
    ((List.range (readLast f - readFirst f + 1)).map fun i => item (readFirst f + i)) s

/-! ## Items -/

/-- FRAME_LIVE groups 0 to 2, of any frame counters and their converted values. -/
def countGroups (f : FrameCounters) (c : Converted) : List (List Byte) :=
  [be 4 f.running ++ be 6 f.producing ++ be 6 f.waste ++ be 6 f.available ++ be 6 f.producingMs ++ be 6 f.unmonitored,
   be 4 f.downtime.d0 ++ be 4 f.downtime.d1 ++ be 4 f.downtime.d2 ++ be 4 f.downtime.d3
     ++ be 2 f.openedRun ++ be 2 f.openedStartup ++ be 2 f.carriedIn
     ++ be 2 f.closures.pieced ++ be 2 f.closures.hand ++ be 2 f.closures.doff ++ be 2 f.closures.blank
     ++ be 2 f.closures.lock ++ be 2 f.closures.restart ++ be 2 f.closures.decommission
     ++ be 2 f.doffs ++ be 2 f.fullCops ++ be 2 f.partialCops ++ be 2 f.baysDone ++ be 2 f.noticesLost,
   be 6 c.yarnMm ++ be 6 c.massMg ++ be 6 c.wasteMassMg ++ be 2 c.efficiency
     ++ (match c.breakRate with
       | some r => be 2 r
       | none => absent 2)]

/-- yarn_mm of a spindle's pulses, 0 where no table has come into force (R47). -/
def spindleYarn (s : State) (pulses : Nat) : Nat :=
  match s.pcu.inForce with
  | some p => p.table.yarnMm pulses
  | none => 0

def countsBytes (s : State) (n : Nat) (c : SpindleCounts) : List Byte :=
  be 2 n ++ be 4 c.pulses ++ be 4 (spindleYarn s c.pulses) ++ b1 c.breaks ++ be 2 c.slip

def spindleLiveItem (s : State) (n : Nat) : List Byte :=
  countsBytes s n (spindle n s).live ++ be 4 (spindle n s).build ++ b1 (spindle n s).sinceDoff

def spindlePrevItem (s : State) (n : Nat) : List Byte := countsBytes s n (spindle n s).prev

/-- Group 0 of HISTORY. -/
def historyHead (r : ShiftRecord) : List Byte :=
  be 2 r.day ++ b1 r.index ++ stampBytes r.start ++ stampBytes r.finish ++ b1 r.reason.code ++ be 2 r.openAtClose ++ b1 1

/-- Groups of a record marked absent: every other field reads all ones (log entry 12). -/
def historyAbsent : List (List Byte) := [absent 18 ++ b1 0, absent 34, absent 46, absent 22]

def historyGroups (r : Option ShiftRecord) : List (List Byte) :=
  match r with
  | some r => historyHead r :: countGroups r.counters r.converted
  | none => historyAbsent

/-- floor(remaining × 1,000 / budget) (R129). -/
def rovingShare (s : State) (remaining : Nat) : Nat := remaining * 1000 / budget s

/-- The bay of the request that lists position `n`; 0 for none. -/
def listingBay (s : State) (n : Nat) : Nat :=
  match (requestList s).find? fun x => x.2.positions.contains n with
  | some x => x.2.bay
  | none => 0

/-- A position of the ROVING read; absent while the part is UNCONFIGURED (R129). -/
def rovingItem (s : State) (n : Nat) : List Byte :=
  be 2 n ++ match (spindle n s).roving with
    | some r => be 4 r.remaining ++ be 2 (rovingShare s r.remaining) ++ b1 r.mark.code ++ b1 (listingBay s n)
    | none => absent 7 ++ b1 (listingBay s n)

/-- The wanting mark of a bay that a range of positions touches, as bit `i` of byte `byte` (log entry 26). -/
def wantingBit (s : State) (first last byte i : Nat) : Nat :=
  let b := 8 * byte + i + 1
  if sectionOf first ≤ b ∧ b ≤ sectionOf last ∧ wanting b s then 2 ^ i else 0

def wantingBytes (s : State) (first last : Nat) : List Byte :=
  (List.range 9).flatMap fun byte => b1 ((List.range 8).map (wantingBit s first last byte)).sum

/-- What leads a ROVING read from its first position: budget, transport mode, presence and wanting marks. -/
def rovingLead (s : State) (first last : Nat) : List Byte :=
  (match s.pcu.inForce with
    | some p => be 4 p.budget
    | none => freeBytes fBudget 4 s)
    ++ b1 s.rvm.mode.code ++ b1 (yesNo (present .rt s)) ++ wantingBytes s first last

/-- The positions' items; the first carries the lead. -/
def rovingItemLed (s : State) (first last n : Nat) : List Byte :=
  if n = first then rovingLead s first last ++ rovingItem s n else rovingItem s n

/-! ### RECORDS -/

/-- Item 0: occupancy, reserves, shared, free shared, free, staged reserves, apply-at-doff. -/
def poolItem (s : State) : List Byte :=
  be 2 (inUse .piece s) ++ be 2 (inUse .hold s) ++ be 2 (inUse .bay s) ++ be 2 (inUse .notice s)
    ++ be 2 s.pool.reserves.piece ++ be 2 s.pool.reserves.hold ++ be 2 s.pool.reserves.bay
    ++ be 2 s.pool.reserves.notice ++ be 2 (shared s) ++ be 2 (freeShared s) ++ be 2 (freeRecords s)
    ++ match s.pool.staged with
      | some p => be 2 p.reserves.piece ++ be 2 p.reserves.hold ++ be 2 p.reserves.bay ++ be 2 p.reserves.notice
          ++ b1 (yesNo p.atDoff)
      | none => freeBytes fStaged 8 s ++ absent 1

def Carriage.code : Carriage → Nat
  | .pc1 => 1
  | .pc2 => 2

/-- state, carriage, attempts, unserved, skip, tag and deadline of a PIECE record, fields its state has not absent. -/
def pieceFields (p : PieceRecord) : List Byte :=
  match p.phase with
  | .queued u k => b1 0 ++ b1 p.carriage.code ++ b1 p.attempts ++ b1 (yesNo u) ++ b1 (yesNo k) ++ absent 1 ++ absent 2
  | .offered t d => b1 1 ++ b1 p.carriage.code ++ b1 p.attempts ++ absent 2 ++ b1 t ++ be 2 d
  | .accepted t d => b1 2 ++ b1 p.carriage.code ++ b1 p.attempts ++ absent 2 ++ b1 t ++ be 2 d
  | .verifying d => b1 3 ++ b1 p.carriage.code ++ b1 p.attempts ++ absent 3 ++ be 2 d

/-- state and timer of a bay request. -/
def bayFields (q : BayRequest) : Nat × List Byte :=
  match q.phase with
  | .waiting => (0, absent 2)
  | .offered d => (1, be 2 d)
  | .accepted d => (2, be 2 d)
  | .refusedWait d => (3, be 2 d)

def recordBytes (r : Nat) (j : JobRecord) : List Byte :=
  be 2 r ++ match j with
    | .piece p => be 2 p.spindle ++ b1 p.origin.code ++ stampBytes p.opened ++ pieceFields p
    | .hold h => be 2 h.spindle ++ b1 h.origin.code ++ stampBytes h.opened ++ b1 4 ++ absent 7
    | .bay q => b1 q.bay ++ b1 (yesNo q.urgent) ++ b1 (bayFields q).1 ++ stampBytes q.created ++ (bayFields q).2
        ++ b1 q.positions.length ++ q.positions.flatMap fun n => b1 (bayOffset n)
    | .notice n => n.payload

/-- The records in use of a class, ascending (R62). -/
def classRecords (c : RecordClass) : Nat → List (Option JobRecord) → List (List Byte)
  | _, [] => []
  | r, none :: rest => classRecords c (r + 1) rest
  | r, some j :: rest =>
    if j.cls = c then recordBytes r j :: classRecords c (r + 1) rest else classRecords c (r + 1) rest

/-! ### STATUS_READ -/

/-- Group 0. -/
def statusHead (s : State) : List Byte :=
  b1 (if s.part = .commissioned then 1 else 0)
    ++ (match s.mfh.frameNumber with
      | some n => b1 n
      | none => absent 1)
    ++ b1 s.mfh.live.byte ++ b1 s.mfh.latched.byte
    ++ be 2 s.fli.rxError ++ be 2 s.fli.unknownSection ++ be 2 s.fli.forwardDrop ++ be 2 s.fli.passBusy
    ++ be 2 s.fli.commandDrop
    ++ be 2 s.slc.rxError ++ be 2 s.slc.rxOverflow ++ be 2 s.slc.clash
    ++ be 2 s.slc.txDrop.pc1 ++ be 2 s.slc.txDrop.pc2 ++ be 2 s.slc.txDrop.ad ++ be 2 s.slc.txDrop.rt
    ++ be 2 s.mfh.rxError ++ be 2 s.mfh.rxOverflow

def LineState.code : LineState → Nat
  | .quiet _ => 0
  | .receiving _ => 1
  | .transmitting _ _ _ _ => 2

/-- Group 1 (R107); the pointer by log entry 46. -/
def statusLine (s : State) : List Byte :=
  b1 s.slc.line.code
    ++ b1 (s.slc.presence.pc1.getD 0) ++ b1 (s.slc.presence.pc2.getD 0) ++ b1 (s.slc.presence.ad.getD 0)
    ++ b1 (s.slc.presence.rt.getD 0)
    ++ b1 s.slc.rx.length
    ++ b1 s.slc.tx.pc1.length ++ b1 s.slc.tx.pc2.length ++ b1 s.slc.tx.ad.length ++ b1 s.slc.tx.rt.length
    ++ b1 (agentCode s.slc.pointer)

/-- The stop in force: its code, 0xFF for none, and its marks. -/
def stopBytes (st : Option Stop) : List Byte :=
  match st with
  | some st => b1 st.code ++ b1 (yesNo st.parkMark + 2 * yesNo st.doffOwned)
  | none => absent 1 ++ b1 0

/-- Parking marks that stand at YES. -/
def markBits (s : State) : Nat :=
  yesNo (s.dfs.stopSeen = some true) + 2 * yesNo (s.dfs.parked1 = some true) + 4 * yesNo (s.dfs.parked2 = some true)

/-- Group 2. -/
def statusDoff (s : State) : List Byte :=
  (match s.dfs.doff with
    | some d => b1 d.code ++ b1 d.causeCode ++ be 4 s.dfs.build
    | none => freeBytes fDoff 1 s ++ b1 0 ++ freeBytes fBuild 4 s)
    ++ (match s.pcu.inForce with
      | some p => be 4 p.target ++ be 4 p.warn
      | none => freeBytes fTarget 4 s ++ freeBytes fWarn 4 s)
    ++ stopBytes s.dfs.stop ++ b1 (markBits s) ++ b1 s.dfs.progress
    ++ (match s.dfs.grace with
      | some g => be 4 g
      | none => absent 4)
    ++ b1 s.dfs.doffer.code

/-- A sum in its field, or free bytes where the field has no room for it. -/
def sumBytes (k width v : Nat) (s : State) : List Byte := if v < 256 ^ width then be width v else freeBytes k width s

/-- Group 3 (R169). -/
def statusGovernor (s : State) : List Byte :=
  b1 (match s.sgv.governor with
      | .normal => 0
      | .limit _ => 1)
    ++ b1 s.sgv.governor.cap ++ b1 s.sgv.supervisorCap ++ b1 (effectiveCap s) ++ b1 s.sgv.lastSent ++ b1 s.sgv.sinceSent
    ++ b1 s.sgv.mismatch
    ++ (match s.sgv.lastRate with
      | some r => be 2 r
      | none => absent 2)
    ++ b1 s.sgv.closed.length ++ sumBytes fWindowBreaks 2 (windowBreaks s) s
    ++ sumBytes fWindowExposure 6 (windowExposure s) s ++ be 2 s.sgv.opened.breaks ++ be 6 s.sgv.opened.exposure
    ++ (match s.sgv.slotTimer with
      | some t => be 2 t
      | none => freeBytes fSlotTimer 2 s)

/-- Trim state and CV. -/
def trimBytes (s : State) : List Byte :=
  match s.scs.trim with
  | .none => b1 0 ++ freeBytes fTrim 1 s
  | .waiting cv => b1 1 ++ beInt 1 cv
  | .owing cv => b1 2 ++ beInt 1 cv

/-- Group 4. -/
def statusClock (s : State) : List Byte :=
  b1 s.scs.hours ++ b1 s.scs.minutes ++ b1 s.scs.seconds ++ be 2 s.scs.day ++ b1 s.scs.sub ++ b1 (yesNo s.scs.valid)
    ++ trimBytes s ++ b1 s.fli.forward.length ++ b1 s.fli.pass.length ++ b1 s.fli.drive.length

def statusGroups (s : State) : List (List Byte) :=
  [statusHead s, statusLine s, statusDoff s, statusGovernor s, statusClock s]

/-! ## The reads -/

def readFrameLive (f : LineFrame) (s : State) : Reply :=
  readItems selFrameLive f (countGroups s.pcu.frame (convert s.pcu.inForce s.pcu.frame)) s

def readSpindleLive (f : LineFrame) (s : State) : Reply := readRange selSpindleLive f (spindleLiveItem s) s

def readSpindlePrev (f : LineFrame) (s : State) : Reply := readRange selSpindlePrev f (spindlePrevItem s) s

/-- R185: n stands in the first field. -/
def readHistory (f : LineFrame) (s : State) : Reply :=
  if 7 ≤ f.payload.length ∧ (readFirst f < 1 ∨ 4 < readFirst f) then refuseItems .badIndex (b1 selHistory) s
  else readItems selHistory f (historyGroups (s.scs.history[readFirst f - 1]?)) s

def readRoving (f : LineFrame) (s : State) : Reply :=
  readRange selRoving f (rovingItemLed s (readFirst f) (readLast f)) s

/-- R62: the class stands in the first field. -/
def readRecords (f : LineFrame) (s : State) : Reply :=
  match RecordClass.ofCode? (readFirst f) with
  | some c => readItems selRecords f (poolItem s :: classRecords c 0 s.pool.records) s
  | none => refuseItems .badValue (b1 selRecords) s

/-- The selector byte a COUNTS_READ carries, free where it carries none. -/
def echoSelector (f : LineFrame) (s : State) : List Byte :=
  match f.payload with
  | b :: _ => [b]
  | [] => freeBytes fEcho 1 s

/-- A selector or class code that names nothing (R201). -/
def readNothing (f : LineFrame) (s : State) : Reply := refuseItems .badValue (echoSelector f s) s

/-- STATUS_READ (R201): a start item past the last is BAD_INDEX, and a clear option that names nothing BAD_VALUE (R212) with
start item 0, the one start item with which the option is read. -/
def readStatus (f : LineFrame) (s : State) : Reply :=
  if f.payload.length < 3 ∨ (fieldAt f.payload 1 2 = 0 ∧ 1 < byteAt f.payload 0) then refuseItems .badValue (absent 1) s
  else if 5 ≤ fieldAt f.payload 1 2 then refuseItems .badIndex (absent 1) s
  else answerItems 255 (fieldAt f.payload 1 2) (statusGroups s) s

/-- The port counters are set to 0 and the latched flags whose live flag is clear are cleared (R201). -/
def clearStatus (s : State) : State :=
  { s with
    fli := { s.fli with rxError := 0, unknownSection := 0, forwardDrop := 0, passBusy := 0, commandDrop := 0 }
    slc := { s.slc with rxError := 0, rxOverflow := 0, clash := 0, txDrop := { pc1 := 0, pc2 := 0, ad := 0, rt := 0 } }
    mfh := { s.mfh with rxError := 0, rxOverflow := 0, latched := s.mfh.latched.keep s.mfh.live } }

/-- STATUS_READ with the clear option and start item 0. -/
def readStatusClear (f : LineFrame) (s : State) : Reply :=
  let r := readStatus f s
  { r with state := clearStatus r.state }

/-- TABLE_READ (R200). -/
def readTable (f : LineFrame) (s : State) : Reply :=
  let refuse := fun (c : RCode) (mark : Nat) =>
    ({ payload := b1 c.code ++ echoSelector f s ++ b1 mark ++ freeBytes fNext 2 s, state := spendFree s } : Reply)
  let start := fieldAt f.payload 1 2
  match Table.ofId? (byteAt f.payload 0) with
  | none => if f.payload.length < 5 then refuse .badValue 0 else refuse .badTable 0
  | some t =>
    if f.payload.length < 5 then refuse .badValue (t.mark s)
    else if start < t.base ∨ t.limit ≤ start then refuse .badIndex (t.mark s)
    else
      let n := min (fieldAt f.payload 3 2) (min (t.limit - start) (55 / t.size))
      { payload := b1 RCode.ok.code ++ b1 t.id ++ b1 (t.mark s)
          ++ (if t.limit ≤ start + n then endMark else be 2 (start + n))
          ++ (List.range n).flatMap fun i => t.entry (start + i) s
        state := s }

end Sys2Proof.Machine
end

