-- ==== Sys2Proof/Machine/Management.lean ====
section
/-! DEFINITION. The execution of a management frame: which row of the table a frame belongs to, and the one operation that
takes the head of the mill-link receive queue, places its RESPONSE and removes it (R199). -/

namespace Sys2Proof.Machine

/-- The row of a TABLE_WRITE: that of the table it names. -/
def tableRow (p : List Byte) : Instr :=
  match Table.ofId? (byteAt p 0) with
  | some .sectionTable => .sectionTableWrite
  | some .spindle => .spindleTableWrite
  | some .carriage => .carriageTableWrite
  | some .process => .processTableWrite
  | some .detection => .detectionTableWrite
  | some .marks => .rovingMarksTableWrite
  | some .doffTimers => .doffTimersTableWrite
  | some .stopAction => .stopActionTableWrite
  | some .governor => .governorTableWrite
  | some .speedSteps => .speedStepTableWrite
  | some .shift => .shiftTableWrite
  | some .serviceLine => .serviceLineTableWrite
  | some .partition => .partitionTableWrite
  | some .noticeMask => .noticeMaskWrite
  | some .lamp => .lampTableWrite
  | none => .tableWrite

/-- The row of a DOFF_CLEAR: that of its option; none where the option names nothing or is missing. -/
def clearRow (p : List Byte) : Instr :=
  match p with
  | _ :: option :: _ =>
    if option = 0 then .doffClearResume
    else if option = 1 then .doffClearManualDone
    else if option = 2 then .doffClearCancel
    else .doffClearOptionNamingNone
  | _ => .doffClearOptionNamingNone

/-- The row of a COMMAND (12.2). -/
def commandRow (p : List Byte) : Instr :=
  match p with
  | [] => .commandCodeNamingNone
  | c :: _ =>
    match c.toNat with
    | 0 => .commission
    | 1 => .decommission
    | 2 => .restart
    | 3 => .doffNow
    | 4 => clearRow p
    | 5 => .unlock
    | 6 => .speedLimit
    | 7 => .applyPartition
    | 8 => .shiftClose
    | 9 => .clockSet
    | 10 => .clockTrim
    | 11 => .clockAlign
    | _ => .commandCodeNamingNone

/-- The row of a COUNTS_READ: that of its selector; a class that names nothing belongs to the last (R201). -/
def countsRow (p : List Byte) : Instr :=
  match p with
  | [] => .selectorNamingNone
  | c :: _ =>
    match c.toNat with
    | 0 => .frameLive
    | 1 => .spindleLive
    | 2 => .spindlePrev
    | 3 => .history
    | 4 => .roving
    | 5 => if 7 ≤ p.length ∧ (RecordClass.ofCode? (fieldAt p 1 2)).isNone then .selectorNamingNone else .records
    | _ => .selectorNamingNone

/-- The row of a STATUS_READ: the clear option counts with start item 0 alone (R201). -/
def statusRow (p : List Byte) : Instr :=
  if 3 ≤ p.length ∧ byteAt p 0 = 1 ∧ fieldAt p 1 2 = 0 then .statusReadClear else .statusRead

/-- The row of spec/opcode_table.json a management frame belongs to (log entry 25). -/
def rowOf (f : LineFrame) : Instr :=
  if f.kind = kTableWrite then tableRow f.payload
  else if f.kind = kTableRead then .tableRead
  else if f.kind = kCommand then commandRow f.payload
  else if f.kind = kCountsRead then countsRow f.payload
  else if f.kind = kStatusRead then statusRow f.payload
  else .forward

/-- The RESPONSE to a frame: its sequence number is that of the frame (R199). -/
def responseTo (f : LineFrame) (payload : List Byte) : MillFrame := { kind := kResponse, seq := f.seq, payload }

/-- The frame leaves the receive queue and its RESPONSE fills the slot (R199). -/
def respond (f : LineFrame) (rest : List LineFrame) (r : Reply) : State :=
  millBegin { r.state with mfh := { r.state.mfh with rx := rest, slot := some (responseTo f r.payload) } }

/-- The frame at the head of the receive queue is executed, when it is of this row and the response slot is empty (R199);
otherwise nothing happens (log entry 1). -/
def manage (row : Instr) (body : LineFrame → State → Reply) (s : State) : State :=
  match s.mfh.rx, s.mfh.slot with
  | f :: rest, none => if rowOf f = row then respond f rest (body f s) else s
  | _, _ => s

end Sys2Proof.Machine
end

