-- ==== Sys2Proof/Machine/FrameLink.lean ====
section
/-! DEFINITION. Commands of the frame link: surveys, drive reports, sensor replies, discarded frames and the end of a frame
going down (chapter 10, R27, R145). -/

namespace Sys2Proof.Machine

/-- SURVEY_COPY of an arriving survey (R190). -/
def surveyCopy (f : LineFrame) (sv : Survey) : MillFrame :=
  { kind := kSurveyCopy, seq := BitVec.ofNat 8 sv.sequence, payload := f.bytes }

/-- SECTION_DIGEST of the states the classifier's work left (R190). -/
def sectionDigest (sv : Survey) (codes : List Nat) : MillFrame :=
  { kind := kSectionDigest, seq := BitVec.ofNat 8 sv.sequence, payload := b1 sv.sectionNo ++ codes.flatMap b1 }

/-- A survey from a section not enabled is discarded and counted (R189). -/
def countUnknown (s : State) : State :=
  saturated (cutShort max16 s.fli.unknownSection 1)
    { s with fli := { s.fli with unknownSection := sat max16 s.fli.unknownSection 1 } }

/-- The forwarding of a survey taken by the classifier (R189). DESIGN CHOICE: `t.state` holds the other blocks' work on the
survey, so the frame is placed after it (R190; log entry 59). -/
def forwardSurvey (mode : ForwardMode) (f : LineFrame) (sv : Survey) (t : SurveyTaken) : State :=
  match mode with
  | .raw => placeForward (surveyCopy f sv) t.state
  | .digest => if t.changed then placeForward (sectionDigest sv t.codes) t.state else t.state
  | .none => t.state

/-- A good survey is settled (R189, R195). Its frame is placed after what the survey set off in other blocks (log entry 59). -/
def takeSurvey (f : LineFrame) (s : State) : State :=
  let sv := surveyOf f.payload
  if s.part = .unconfigured then placeForward (surveyCopy f sv) s
  else if !(sectionAt sv.sectionNo s).enabled then countUnknown s
  else forwardSurvey (sectionAt sv.sectionNo s).mode f sv (classify sv s)

/-- A good frame of this kind is taken by `take`; any other leaves the part as it is (log entry 1). -/
def onFrameLink (kind : Byte) (bytes : List Byte) (take : LineFrame → State → State) (s : State) : State :=
  match judgeFrameLink bytes with
  | .good f => if f.kind = kind then take f s else s
  | _ => s

/-- SURVEY. -/
def execSurvey (bytes : List Byte) (s : State) : Host.Outcome State Fault Refusal :=
  finish (onFrameLink kSurvey bytes takeSurvey s)

/-- A good drive report is taken by the commissioned part and discarded by the other (R188). -/
def takeDriveReport (f : LineFrame) (s : State) : State :=
  if s.part = .commissioned then takeReport (driveReportOf f.payload) s else s

/-- DRIVE_REPORT. -/
def execDriveReport (bytes : List Byte) (s : State) : Host.Outcome State Fault Refusal :=
  finish (onFrameLink kDriveReport bytes takeDriveReport s)

/-- A drive report that ends the grace (R145). -/
def takeGraceEnd (f : LineFrame) (s : State) : State :=
  if s.part = .commissioned && graceEndsOn (driveReportOf f.payload) s then takeReport (driveReportOf f.payload) s else s

/-- GRACE_END (log entry 6). -/
def execGraceEnd (bytes : List Byte) (s : State) : Host.Outcome State Fault Refusal :=
  finish (onFrameLink kDriveReport bytes takeGraceEnd s)

/-- A good sensor reply is forwarded, or dropped when it is too long (R191). -/
def takeSensorReply (f : LineFrame) (s : State) : State :=
  if f.payload.length ≤ 53 then placeForward { kind := kSensorReply, seq := f.seq, payload := f.bytes } s
  else countForwardDrop s

/-- SENSOR_REPLY. -/
def execSensorReply (bytes : List Byte) (s : State) : Host.Outcome State Fault Refusal :=
  finish (onFrameLink kSensorReply bytes takeSensorReply s)

/-- The frame-link receive-error counter rises (R196). -/
def countLinkError (s : State) : State :=
  saturated (cutShort max16 s.fli.rxError 1) { s with fli := { s.fli with rxError := sat max16 s.fli.rxError 1 } }

/-- FRAME_LINK_FRAME_DISCARDED (R187). -/
def execFrameLinkFrameDiscarded (bytes : List Byte) (s : State) : Host.Outcome State Fault Refusal :=
  finish (match judgeFrameLink bytes with
    | .error => countLinkError s
    | .ignored => s
    | .good _ => s)

/-- The frame going down ends and the next begins (R194). -/
def endDown (s : State) : State :=
  match s.fli.down with
  | some _ => downBegin { s with fli := { s.fli with down := none } }
  | none => s

/-- DOWN_LINK_FRAME_END. -/
def execDownLinkFrameEnd (s : State) : Host.Outcome State Fault Refusal := finish (endDown s)

end Sys2Proof.Machine
end

