-- ==== Sys2Proof/Machine/ServiceLine.lean ====
section
/-! DEFINITION. Commands of the service line: the carrier, the gap, the end of the part's frame, and an agent's silence
(chapter 5). -/

namespace Sys2Proof.Machine

def setLine (l : LineState) (s : State) : State := { s with slc := { s.slc with line := l } }

/-- The line-clash counter rises (R96). -/
def countClash (s : State) : State :=
  saturated (cutShort max16 s.slc.clash 1) { s with slc := { s.slc with clash := sat max16 s.slc.clash 1 } }

/-- Carrier detect rises (R94, R96). -/
def carrierRise (s : State) : State :=
  match s.slc.line with
  | .quiet _ => setLine (.receiving true) s
  | .receiving _ => s
  | .transmitting a f clash _ =>
    let s1 := setLine (.transmitting a f true true) s
    if clash then s1 else countClash s1

/-- CARRIER_DETECT_RISE. -/
def execCarrierDetectRise (s : State) : Host.Outcome State Fault Refusal := finish (carrierRise s)

/-- The service-line receive-error counter rises (R106). -/
def countServiceError (s : State) : State :=
  saturated (cutShort max16 s.slc.rxError 1) { s with slc := { s.slc with rxError := sat max16 s.slc.rxError 1 } }

/-- The service-line receive-overflow counter rises (R99, R106). -/
def countServiceOverflow (s : State) : State :=
  saturated (cutShort max16 s.slc.rxOverflow 1)
    { s with slc := { s.slc with rxOverflow := sat max16 s.slc.rxOverflow 1 } }

/-- A valid frame restarts its agent's silence timer, and makes an ABSENT agent PRESENT (R98). -/
def refreshAgent (a : Agent) (s : State) : State :=
  let s1 : State := { s with slc := { s.slc with
    presence := s.slc.presence.put a (some s.slc.table.agentSilence) } }
  if present a s then s1 else ownerPresent a (raise .agentBack [((agentAddr a).toNat : Int)] s1)

/-- A valid frame joins the receive queue, or is discarded and counted (R99). -/
def joinReceive (a : Agent) (f : LineFrame) (s : State) : State :=
  if s.slc.rx.length < Config.serviceRx then
    testLevel { s with slc := { s.slc with rx := s.slc.rx ++ [{ agent := a, msg := agentMsgOf f, seq := f.seq }] } }
  else countServiceOverflow s

/-- The bytes heard between the carrier's rise and fall are judged (R97). -/
def judgeHeard (heard : List Byte) (s : State) : State :=
  match openedFrame heard with
  | none => if heard.isEmpty then s else countServiceError s
  | some bytes =>
    match judgeService bytes with
    | .good f =>
      match agentAt f.src with
      | some a => joinReceive a f (refreshAgent a s)
      | none => s
    | .error => countServiceError s
    | .ignored => s

/-- Carrier detect falls (R94, R96, R97). That a frame is judged at the fall also where its declared end stood earlier, as the
table of R94 has it, and not at that end, is the model's choice (log entry 56). -/
def carrierFall (heard : List Byte) (s : State) : State :=
  match s.slc.line with
  | .quiet _ => s
  | .receiving listening =>
    let s1 := setLine (.quiet 0) s
    if listening then judgeHeard heard s1 else s1
  | .transmitting a f clash _ => setLine (.transmitting a f clash false) s

/-- CARRIER_DETECT_FALL. -/
def execCarrierDetectFall (heard : List Byte) (s : State) : Host.Outcome State Fault Refusal :=
  finish (carrierFall heard s)

/-- The quiet time reaches `ms` milliseconds (R95; log entry 7). -/
def quietFor (ms : Nat) (s : State) : State :=
  match s.slc.line with
  | .quiet old => serviceTurn (setLine (.quiet (max old ms)) s)
  | _ => s

/-- GAP_PART_ELAPSED. -/
def execGapPartElapsed (quietMs : Nat) (s : State) : Host.Outcome State Fault Refusal := finish (quietFor quietMs s)

/-- The part's frame ends (R94, R96). -/
def endService (s : State) : State :=
  match s.slc.line with
  | .transmitting _ _ _ carrier => setLine (if carrier then .receiving false else .quiet 0) s
  | _ => s

/-- SERVICE_FRAME_END. -/
def execServiceFrameEnd (s : State) : Host.Outcome State Fault Refusal := finish (endService s)

/-- An agent whose silence timer stands at 0 becomes ABSENT (R104). -/
def agentSilent (a : Agent) (s : State) : State :=
  if s.slc.presence.get a = some 0 then
    ownerAbsent a (raise .agentAbsent [((agentAddr a).toNat : Int)]
      { s with slc := { s.slc with presence := s.slc.presence.put a none } })
  else s

/-- AGENT_SILENCE_EXPIRY. -/
def execAgentSilenceExpiry (a : Agent) (s : State) : Host.Outcome State Fault Refusal := finish (agentSilent a s)

end Sys2Proof.Machine
end

