-- ==== Sys2Proof/Machine/AgentFrames.lean ====
section
/-! DEFINITION. Commands that deliver the frame at the head of the service-line receive queue to its owning block (R100,
chapters 4, 6 and 7). -/

namespace Sys2Proof.Machine

/-- The frame at the head of the receive queue is handed on when `take` has an effect for it, and then leaves the queue
(R100); a frame of another row is left where it stands (log entry 1). -/
def deliver (take : RxFrame → Option (State → State)) (s : State) : State :=
  match s.slc.rx with
  | [] => s
  | f :: rest =>
    match take f with
    | some effect =>
      let s1 := effect s
      testLevel { s1 with slc := { s1.slc with rx := rest } }
    | none => s

/-! ## Status (R67, R121, R144) -/

/-- The position a status is taken as (R67). -/
def clampPosition (p : Nat) : Nat := if p = 0 then 1 else min 1728 p

/-- The carriage's status, field by field (R67). -/
def CarriageUnit.reported (u : CarriageUnit) (position direction mode : Nat) : CarriageUnit :=
  { u with position := clampPosition position, direction := (Direction.ofCode? direction).getD u.direction,
           mode := (AgentMode.ofCode? mode).getD u.mode }

/-- skip NO on every record in a carriage's queue (R74). -/
def clearSkips (c : Carriage) (s : State) : State :=
  { s with pool := { s.pool with records := s.pool.records.map fun r =>
      match r with
      | some (.piece p) =>
        match p.phase with
        | .queued false _ => if p.carriage = c then some (.piece { p with phase := .queued false false }) else r
        | _ => r
      | _ => r } }

/-- A carriage's status (R67, R74, R76). -/
def carriageStatus (c : Carriage) (position direction mode : Nat) (s : State) : State :=
  let s1 := modCarriage c (fun u => u.reported position direction mode) s
  offerTest c (if (carriage c s1).direction = (carriage c s).direction then s1 else clearSkips c s1)

/-- The transport's status (R121). -/
def transportStatus (mode : Nat) (s : State) : State :=
  let s1 : State := { s with rvm := { s.rvm with mode := (AgentMode.ofCode? mode).getD s.rvm.mode } }
  if AgentMode.ofCode? mode = some .working then bayOfferTest s1 else s1

/-- The autodoffer's status (R144). -/
def dofferStatus (mode : Nat) (s : State) : State :=
  { s with dfs := { s.dfs with doffer := (AgentMode.ofCode? mode).getD s.dfs.doffer } }

/-- A status acts at the block that owns its agent. -/
def agentStatus (a : Agent) (position direction mode : Nat) (s : State) : State :=
  match a with
  | .pc1 => carriageStatus .pc1 position direction mode s
  | .pc2 => carriageStatus .pc2 position direction mode s
  | .ad => dofferStatus mode s
  | .rt => transportStatus mode s

/-- AGENT_STATUS. -/
def execAgentStatus (s : State) : Host.Outcome State Fault Refusal :=
  finish (deliver (fun f => match f.msg with
    | .status p d m => some (agentStatus f.agent p d m)
    | _ => none) s)

/-! ## Carriage replies (4.7) -/

/-- The record of carriage `c` in OFFERED or ACCEPTED with tag `t` (R80). Of two that hold one tag, the lowest-numbered: the
spec does not say which (log entry 45). -/
def matching (c : Carriage) (t : Nat) (s : State) : Option Nat :=
  (recordsWhere (fun j => match j with
    | .piece p => p.carriage = c && (match p.phase with
      | .offered tag _ | .accepted tag _ => tag = t
      | _ => false)
    | _ => false) s).head?

/-- R80. -/
def jobAccept (c : Carriage) (t : Nat) (s : State) : State :=
  match matching c t s with
  | none => placeTold c.agent (.jobCancel t) s
  | some r =>
    match pieceAt r s with
    | some p =>
      match p.phase with
      | .offered tag _ => setPiece r { p with phase := .accepted tag (carriage c s).resultTimeout } s
      | _ => s
    | none => s

/-- JOB_ACCEPT. -/
def execJobAccept (s : State) : Host.Outcome State Fault Refusal :=
  finish (deliver (fun f => match agentCarriage f.agent, f.msg with
    | some c, .accept t => some (jobAccept c t)
    | _, _ => none) s)

/-- R81. -/
def jobDecline (c : Carriage) (t : Nat) (s : State) : State :=
  match matching c t s with
  | some r => requeue c r true s
  | none => s

/-- JOB_DECLINE. -/
def execJobDecline (s : State) : Host.Outcome State Fault Refusal :=
  finish (deliver (fun f => match agentCarriage f.agent, f.msg with
    | some c, .decline t => some (jobDecline c t)
    | _, _ => none) s)

/-- The exchange of R54 passes. -/
def canReclass (r : Nat) (s : State) : Bool :=
  inUse .hold s < s.pool.reserves.hold || 0 < freeShared (setRecord r none s)

/-- A PIECE record is reclassed HOLD, or freed when the exchange fails; the position is marked EMPTY (R54, R85). -/
def reclass (r : Nat) (s : State) : State :=
  match pieceAt r s with
  | none => s
  | some p =>
    if canReclass r s then
      markEmpty p.spindle (testPoolLow (setState p.spindle (.rovingWait 0)
        (setRecord r (some (.hold { spindle := p.spindle, origin := p.origin, opened := p.opened })) s)))
    else markEmpty p.spindle (free r (setState p.spindle (.unlisted 0 true p.origin) s))

/-- A PIECED result: the record waits on the spindle's next reading (R84). -/
def toVerify (c : Carriage) (r : Nat) (s : State) : State :=
  match pieceAt r s with
  | some p => setState p.spindle .verify (setPiece r { p with phase := .verifying (carriage c s).resultTimeout } s)
  | none => s

/-- The result code decides (R84). -/
def settleResult (c : Carriage) (r code : Nat) (s : State) : State :=
  if code = 0 then toVerify c r s
  else if code = 1 then chargedAttempt r true s
  else if code = 2 then reclass r s
  else requeue c r true s

/-- R84, R86. -/
def jobResult (c : Carriage) (t code : Nat) (s : State) : State :=
  match matching c t s with
  | some r => offerTest c (settleResult c r code (place c.agent (.resultAck t true) s))
  | none => placeTold c.agent (.resultAck t false) s

/-- JOB_RESULT. -/
def execJobResult (s : State) : Host.Outcome State Fault Refusal :=
  finish (deliver (fun f => match agentCarriage f.agent, f.msg with
    | some c, .result t code => some (jobResult c t code)
    | _, _ => none) s)

/-- R67, R138: only a PRESENT carriage has a parking mark. -/
def carriageParks (c : Carriage) (s : State) : State :=
  let s1 := modCarriage c (fun u => { u with mode := .parked }) s
  if s1.dfs.doff = some .called then testWait (if present c.agent s1 then setParkMark c (some true) s1 else s1) else s1

/-- PARKED. -/
def execParked (s : State) : Host.Outcome State Fault Refusal :=
  finish (deliver (fun f => match agentCarriage f.agent, f.msg with
    | some c, .parked => some (carriageParks c)
    | _, _ => none) s)

/-! ## The autodoffer (R142 to R144) -/

/-- No doff is running: the autodoffer is told so, but for a doff that stands faulted (R144). -/
def notDoffing (s : State) : State := if s.dfs.doff.any (fun d => d.code = 5) then s else place .ad .doffAbort s

/-- R142. -/
def doffProgress (sections : Nat) (s : State) : State :=
  if s.dfs.doff = some .doffing then { s with dfs := { s.dfs with progress := min 72 sections } } else notDoffing s

/-- DOFF_PROGRESS. -/
def execDoffProgress (s : State) : Host.Outcome State Fault Refusal :=
  finish (deliver (fun f => match f.agent, f.msg with
    | .ad, .progress n => some (doffProgress n)
    | _, _ => none) s)

/-- The doff timer is discarded. -/
def dropDoffTimer (s : State) : State := { s with dfs := { s.dfs with doffTimer := none } }

/-- R143. -/
def doffDone (s : State) : State :=
  if s.dfs.doff = some .doffing then completeDoff (dropDoffTimer s) else notDoffing s

/-- DOFF_DONE. -/
def execDoffDone (s : State) : Host.Outcome State Fault Refusal :=
  finish (deliver (fun f => match f.agent, f.msg with
    | .ad, .doffDone => some doffDone
    | _, _ => none) s)

/-- R142, R144. -/
def doffFaulted (s : State) : State :=
  if s.dfs.doff = some .doffing then faultDoff .doffer (dropDoffTimer s) else s

/-- DOFF_FAULT. -/
def execDoffFault (s : State) : Host.Outcome State Fault Refusal :=
  finish (deliver (fun f => match f.agent, f.msg with
    | .ad, .doffFault => some doffFaulted
    | _, _ => none) s)

/-! ## The transport (R123 to R125, R128) -/

/-- A bay of the frame. -/
def isBay (b : Nat) : Bool := 1 ≤ b && b ≤ Config.sections

/-- R123. -/
def bayAccepted (b : Nat) (s : State) : State :=
  if !isBay b then s
  else match requestOf b s with
    | some (r, q) =>
      match q.phase with
      | .offered _ => setRequest r { q with phase := .accepted s.rvm.marks.bayTimeout } s
      | .accepted _ => s
      | .waiting | .refusedWait _ => placeTold .rt (.bayWithdraw b) s
    | none => placeTold .rt (.bayWithdraw b) s

/-- BAY_ACCEPT. -/
def execBayAccept (s : State) : Host.Outcome State Fault Refusal :=
  finish (deliver (fun f => match f.agent, f.msg with
    | .rt, .bayAccept b => some (bayAccepted b)
    | _, _ => none) s)

/-- Roving returns to a ROVING_WAIT spindle: its HOLD record is freed with the sweep, then a PIECE record is asked for
(R23, R58, R124). That what the sweep's grants bring comes before that request is the model's choice (log entry 52). -/
def rovingReturn (n : Nat) (s : State) : State :=
  let s1 := match breakRecordOf n s with
    | some r => free r s
    | none => s
  requestBreak n false .rovingReturn s1

/-- One position replaced (R124). -/
def replaced (s : State) (n : Nat) : State :=
  let s1 := refill n s
  match (spindle n s).state with
  | .rovingWait _ => rovingReturn n s1
  | .unlisted g true o => setState n (.unlisted g false o) s1
  | _ => s1

/-- The positions of a request that a report names, ascending; an offset of 0 or above 24 is ignored (R124, R212). -/
def takenPositions (q : BayRequest) (offsets : List Nat) : List Nat :=
  q.positions.filter fun n => offsets.any fun o => 1 ≤ o && o ≤ 24 && 24 * (q.bay - 1) + o = n

/-- The request in record `r` leaves the list and its record is freed, without a sweep pass (R124, R130). -/
def dropRequest (r : Nat) (s : State) : State :=
  freeQuiet r { s with rvm := { s.rvm with requests := s.rvm.requests.filter fun x => x ≠ r } }

/-- A request is done (R124). That what the grants of the sweep bring comes before BAY_CLOSED and the tests of the close is
the model's choice (log entry 52). -/
def bayFinished (r : Nat) (q : BayRequest) (offsets : List Nat) (s : State) : State :=
  let taken := takenPositions q offsets
  let s1 := addBaysDone (sweep (dropRequest r (taken.foldl replaced s)))
  bayOfferTest (callTest false q.bay
    (raise .bayClosed [(q.bay : Int), 0, (q.positions.length : Int), (taken.length : Int)] s1))

/-- R124. -/
def bayDone (b : Nat) (offsets : List Nat) (s : State) : State :=
  if !isBay b then s
  else match requestOf b s with
    | some (r, q) => if q.phase.inService then bayFinished r q offsets s else placeTold .rt (.bayWithdraw b) s
    | none => placeTold .rt (.bayWithdraw b) s

/-- BAY_DONE. -/
def execBayDone (s : State) : Host.Outcome State Fault Refusal :=
  finish (deliver (fun f => match f.agent, f.msg with
    | .rt, .bayDone b offsets => some (bayDone b offsets)
    | _, _ => none) s)

/-- R125. -/
def bayRefused (b : Nat) (s : State) : State :=
  match requestOf b s with
  | some (r, q) =>
    if q.phase.inService then bayOfferTest (setRequest r { q with phase := .refusedWait s.rvm.marks.retryDelay } s) else s
  | none => s

/-- BAY_REFUSED. -/
def execBayRefused (s : State) : Host.Outcome State Fault Refusal :=
  finish (deliver (fun f => match f.agent, f.msg with
    | .rt, .bayRefused b => some (if isBay b then bayRefused b else id)
    | _, _ => none) s)

end Sys2Proof.Machine
end

