-- ==== Sys2Proof/Machine/MillLink.lean ====
section
/-! DEFINITION. Commands of the mill link: a frame received and the end of a frame sent (R198, R203). -/

namespace Sys2Proof.Machine

/-- The mill-link receive-error counter rises (R198). -/
def countMillError (s : State) : State :=
  saturated (cutShort max16 s.mfh.rxError 1) { s with mfh := { s.mfh with rxError := sat max16 s.mfh.rxError 1 } }

/-- The mill-link receive-overflow counter rises (R198). -/
def countMillOverflow (s : State) : State :=
  saturated (cutShort max16 s.mfh.rxOverflow 1)
    { s with mfh := { s.mfh with rxOverflow := sat max16 s.mfh.rxOverflow 1 } }

/-- A frame addressed to the part joins the receive queue, or is discarded and counted (R198). -/
def joinMill (f : LineFrame) (s : State) : State :=
  if s.mfh.rx.length < Config.millRx then { s with mfh := { s.mfh with rx := s.mfh.rx ++ [f] } } else countMillOverflow s

/-- A frame number is adopted, and the frames that waited for it may begin (R198, R203). -/
def adopt (n : Nat) (s : State) : State := millBegin { s with mfh := { s.mfh with frameNumber := some n } }

/-- The fourth test of R198, and the adoption of a frame number. -/
def takeMill (f : LineFrame) (s : State) : State :=
  match s.mfh.frameNumber with
  | some n => if f.dest = millAddr n then joinMill f s else s
  | none => if 0x81 ≤ f.dest.toNat then adopt (f.dest.toNat - 0x80) (joinMill f s) else s

/-- A frame arriving on the mill link is judged (R198). -/
def millReceived (bytes : List Byte) (s : State) : State :=
  match judgeMill bytes with
  | .good f => takeMill f s
  | .error => countMillError s
  | .ignored => s

/-- MILL_LINK_FRAME_RECEIVED. -/
def execMillLinkFrameReceived (bytes : List Byte) (s : State) : Host.Outcome State Fault Refusal :=
  finish (millReceived bytes s)

/-- The record of a sent NOTICE is freed and the sweep follows (R203, R53). -/
def freeSent (tx : MillTx) (s : State) : State :=
  match tx.source with
  | .notice r => free r s
  | .response | .forward => s

/-- The frame in transmission ends and the next begins (R203; log entry 31). -/
def millEnd (s : State) : State :=
  match s.mfh.tx with
  | some tx =>
    let s1 := freeSent tx s
    millBegin { s1 with mfh := { s1.mfh with tx := none } }
  | none => s

/-- MILL_LINK_FRAME_END. -/
def execMillLinkFrameEnd (s : State) : Host.Outcome State Fault Refusal := finish (millEnd s)

end Sys2Proof.Machine
end

