-- ==== Sys2Proof/Machine/Timers.lean ====
section
/-! DEFINITION. Commands of the clock and the timers. An expiry is taken when its timer stands at 0 and the record or block
still stands in the state that holds it; otherwise it did not happen and nothing changes (R78; log entry 5). -/

namespace Sys2Proof.Machine

/-- SUB_SECOND_STEP (R172, R177; log entry 4). -/
def execSubSecondStep (s : State) : Host.Outcome State Fault Refusal := finish (subStep s).state

/-- SECOND_EVENT (R173; log entry 4). -/
def execSecondEvent (s : State) : Host.Outcome State Fault Refusal := finish (nextSecond s)

/-- R82. -/
def acceptExpiry (r : Nat) (s : State) : State :=
  match pieceAt r s with
  | some p =>
    match p.phase with
    | .offered tag 0 => requeue p.carriage r false (place p.carriage.agent (.jobCancel tag) s)
    | _ => s
  | none => s

/-- ACCEPT_DEADLINE_EXPIRY. -/
def execAcceptDeadlineExpiry (r : Nat) (s : State) : Host.Outcome State Fault Refusal := finish (acceptExpiry r s)

/-- R83. -/
def resultExpiry (r : Nat) (s : State) : State :=
  match pieceAt r s with
  | some p =>
    match p.phase with
    | .accepted tag 0 => chargedAttempt r false (place p.carriage.agent (.jobCancel tag) s)
    | _ => s
  | none => s

/-- RESULT_DEADLINE_EXPIRY. -/
def execResultDeadlineExpiry (r : Nat) (s : State) : Host.Outcome State Fault Refusal := finish (resultExpiry r s)

/-- R87. -/
def verifyExpiry (r : Nat) (s : State) : State :=
  match pieceAt r s with
  | some p => if p.phase = .verifying 0 then chargedAttempt r false s else s
  | none => s

/-- VERIFY_DEADLINE_EXPIRY. -/
def execVerifyDeadlineExpiry (r : Nat) (s : State) : Host.Outcome State Fault Refusal := finish (verifyExpiry r s)

/-- A request whose timer expires in phase `due` is withdrawn and returns to WAITING (R126). -/
def bayExpiry (due : BayPhase) (b : Nat) (s : State) : State :=
  match requestOf b s with
  | some (r, q) => if q.phase = due then returnToWaiting r q (place .rt (.bayWithdraw b) s) else s
  | none => s

/-- BAY_ACCEPT_DEADLINE_EXPIRY. -/
def execBayAcceptDeadlineExpiry (b : Nat) (s : State) : Host.Outcome State Fault Refusal :=
  finish (bayExpiry (.offered 0) b s)

/-- BAY_TIMEOUT_EXPIRY. -/
def execBayTimeoutExpiry (b : Nat) (s : State) : Host.Outcome State Fault Refusal :=
  finish (bayExpiry (.accepted 0) b s)

/-- R125. -/
def retryExpiry (b : Nat) (s : State) : State :=
  match requestOf b s with
  | some (r, q) => if q.phase = .refusedWait 0 then returnToWaiting r q s else s
  | none => s

/-- RETRY_TIMER_EXPIRY. -/
def execRetryTimerExpiry (b : Nat) (s : State) : Host.Outcome State Fault Refusal := finish (retryExpiry b s)

/-- R139: the marks are kept as they stood. -/
def parkExpiry (s : State) : State :=
  if s.dfs.doff = some .called ∧ s.dfs.parkTimer = some 0 then
    faultDoff .park { s with dfs := { s.dfs with parkTimer := none } }
  else s

/-- PARK_TIMER_EXPIRY. -/
def execParkTimerExpiry (s : State) : Host.Outcome State Fault Refusal := finish (parkExpiry s)

/-- R142. -/
def doffExpiry (s : State) : State :=
  if s.dfs.doff = some .doffing ∧ s.dfs.doffTimer = some 0 then
    faultDoff .timeout (place .ad .doffAbort (dropDoffTimer s))
  else s

/-- DOFF_TIMER_EXPIRY. -/
def execDoffTimerExpiry (s : State) : Host.Outcome State Fault Refusal := finish (doffExpiry s)

/-- R161. -/
def slotEnd (s : State) : State :=
  if s.part = .commissioned ∧ s.sgv.slotTimer = some 0 then evaluate (rollSlot s) else s

/-- SLOT_END. -/
def execSlotEnd (s : State) : Host.Outcome State Fault Refusal := finish (slotEnd s)

/-- LAMP_BLINK_PHASE_END (R207; log entry 8). -/
def execLampBlinkPhaseEnd (l : Lamp) (s : State) : Host.Outcome State Fault Refusal := finish (toggleLamp l s)

end Sys2Proof.Machine
end

