-- ==== Sys2Proof/Machine/TableWrites.lean ====
section
/-! DEFINITION. The table writes: each row of the table that names one, executed from the head of the mill-link receive
queue (R200 and the owning rules). -/

namespace Sys2Proof.Machine

/-- SECTION_TABLE_WRITE (R1). -/
def execSectionTableWrite (s : State) : Host.Outcome State Fault Refusal :=
  finish (manage .sectionTableWrite
    (writeTable .sectionTable (fun _ e => parseSection e) fun i l s => .ok (eachEntry writeSection i l s)) s)

/-- SPINDLE_TABLE_WRITE (R4, R24). -/
def execSpindleTableWrite (s : State) : Host.Outcome State Fault Refusal :=
  finish (manage .spindleTableWrite
    (writeTable .spindle (fun _ e => parseSpindle e) fun i l s => .ok (eachEntry writeSpindle i l s)) s)

/-- CARRIAGE_TABLE_WRITE (R66, R71). -/
def execCarriageTableWrite (s : State) : Host.Outcome State Fault Refusal :=
  finish (manage .carriageTableWrite
    (writeTable .carriage (fun _ e => parseCarriage e) fun i l s => .ok (eachEntry writeCarriage i l s)) s)

/-- PROCESS_TABLE_WRITE (R38, R39). -/
def execProcessTableWrite (s : State) : Host.Outcome State Fault Refusal :=
  finish (manage .processTableWrite (writeTable .process (fun _ e => parseProcess e) fun _ l s => stageProcess l s) s)

/-- DETECTION_TABLE_WRITE (R7). -/
def execDetectionTableWrite (s : State) : Host.Outcome State Fault Refusal :=
  finish (manage .detectionTableWrite
    (writeTable .detection (fun _ e => parseDetection e) fun i l s => .ok (eachEntry (fun _ => writeDetection) i l s)) s)

/-- ROVING_MARKS_TABLE_WRITE (R111). -/
def execRovingMarksTableWrite (s : State) : Host.Outcome State Fault Refusal :=
  finish (manage .rovingMarksTableWrite
    (writeTable .marks (fun _ e => parseMarks e) fun i l s => .ok (eachEntry (fun _ => writeMarks) i l s)) s)

/-- DOFF_TIMERS_TABLE_WRITE (R132). -/
def execDoffTimersTableWrite (s : State) : Host.Outcome State Fault Refusal :=
  finish (manage .doffTimersTableWrite
    (writeTable .doffTimers (fun _ e => parseDoffTimers e) fun i l s =>
      .ok (eachEntry (fun _ => writeDoffTimers) i l s)) s)

/-- STOP_ACTION_TABLE_WRITE (R147, R135). -/
def execStopActionTableWrite (s : State) : Host.Outcome State Fault Refusal :=
  finish (manage .stopActionTableWrite
    (writeTable .stopAction (fun _ e => parseStopAction e) fun i l s =>
      .ok (withPermission (eachEntry writeStopAction i l) s)) s)

/-- GOVERNOR_TABLE_WRITE (R162). -/
def execGovernorTableWrite (s : State) : Host.Outcome State Fault Refusal :=
  finish (manage .governorTableWrite
    (writeTable .governor (fun _ e => parseGovernor e) fun i l s => .ok (eachEntry (fun _ => writeGovernor) i l s)) s)

/-- SPEED_STEP_TABLE_WRITE (R166, R167). -/
def execSpeedStepTableWrite (s : State) : Host.Outcome State Fault Refusal :=
  finish (manage .speedStepTableWrite (writeTable .speedSteps (fun _ e => parseSpeedStep e) writeSpeedSteps) s)

/-- SHIFT_TABLE_WRITE (R180). -/
def execShiftTableWrite (s : State) : Host.Outcome State Fault Refusal :=
  finish (manage .shiftTableWrite (writeTable .shift (fun _ e => parseShift e) writeShift) s)

/-- SERVICE_LINE_TABLE_WRITE (R93). -/
def execServiceLineTableWrite (s : State) : Host.Outcome State Fault Refusal :=
  finish (manage .serviceLineTableWrite
    (writeTable .serviceLine (fun _ e => parseServiceLine e) fun i l s =>
      .ok (eachEntry (fun _ => writeServiceLine) i l s)) s)

/-- PARTITION_TABLE_WRITE (R59). -/
def execPartitionTableWrite (s : State) : Host.Outcome State Fault Refusal :=
  finish (manage .partitionTableWrite
    (writeTable .partition (fun _ e => parsePartition e) fun i l s => .ok (eachEntry (fun _ => stagePartition) i l s)) s)

/-- NOTICE_MASK_WRITE (R205). -/
def execNoticeMaskWrite (s : State) : Host.Outcome State Fault Refusal :=
  finish (manage .noticeMaskWrite
    (writeTable .noticeMask (fun _ e => some (parseMask e)) fun i l s => .ok (eachEntry (fun _ => writeMask) i l s)) s)

/-- LAMP_TABLE_WRITE (R207). -/
def execLampTableWrite (s : State) : Host.Outcome State Fault Refusal :=
  finish (manage .lampTableWrite
    (writeTable .lamp parseLamp fun i l s => .ok (eachEntry (fun _ => writeLamp) i l s)) s)

/-- A TABLE_WRITE that names no table (R200); one too short to hold its start index is BAD_VALUE (R212). -/
def writeNoTable (f : LineFrame) (s : State) : Reply := .fail (if f.payload.length < 3 then .badValue else .badTable) s

/-- TABLE_WRITE. -/
def execTableWrite (s : State) : Host.Outcome State Fault Refusal := finish (manage .tableWrite writeNoTable s)

end Sys2Proof.Machine
end

