-- ==== Sys2Proof/Machine/ReadOuts.lean ====
section
/-! DEFINITION. The rows that read the part, executed from the head of the mill-link receive queue (R200, R201). -/

namespace Sys2Proof.Machine

/-- TABLE_READ (R200). -/
def execTableRead (s : State) : Host.Outcome State Fault Refusal := finish (manage .tableRead readTable s)

/-- FRAME_LIVE (R47). -/
def execFrameLive (s : State) : Host.Outcome State Fault Refusal := finish (manage .frameLive readFrameLive s)

/-- SPINDLE_LIVE (R47). -/
def execSpindleLive (s : State) : Host.Outcome State Fault Refusal := finish (manage .spindleLive readSpindleLive s)

/-- SPINDLE_PREV (R47). -/
def execSpindlePrev (s : State) : Host.Outcome State Fault Refusal := finish (manage .spindlePrev readSpindlePrev s)

/-- HISTORY (R185). -/
def execHistory (s : State) : Host.Outcome State Fault Refusal := finish (manage .history readHistory s)

/-- ROVING (R129). -/
def execRoving (s : State) : Host.Outcome State Fault Refusal := finish (manage .roving readRoving s)

/-- RECORDS (R62). -/
def execRecords (s : State) : Host.Outcome State Fault Refusal := finish (manage .records readRecords s)

/-- STATUS_READ (R201). -/
def execStatusRead (s : State) : Host.Outcome State Fault Refusal := finish (manage .statusRead readStatus s)

/-- STATUS_READ_CLEAR (R201). -/
def execStatusReadClear (s : State) : Host.Outcome State Fault Refusal :=
  finish (manage .statusReadClear readStatusClear s)

/-- SELECTOR_NAMING_NONE (R201). -/
def execSelectorNamingNone (s : State) : Host.Outcome State Fault Refusal :=
  finish (manage .selectorNamingNone readNothing s)

end Sys2Proof.Machine
end

