-- ==== Sys2Proof/Machine/Commands.lean ====
section
/-! DEFINITION. Power-on reset, the COMMAND rows and FORWARD (R192, R202, R208 to R211). -/

namespace Sys2Proof.Machine

/-- POWER_ON_RESET (R211; log entry 9). -/
def execPowerOnReset (carrier : Bool) (s : State) : Host.Outcome State Fault Refusal :=
  .next { State.resetWith carrier with pending := s.pending, freeCount := s.freeCount }

/-! ## COMMISSION (R208) -/

/-- The initial build a COMMISSION carries, in metres; none is 0 (log entry 25). -/
def initialMetres (f : LineFrame) : Nat := fieldAt f.payload 1 2

/-- The table whose check fails first (R208). -/
def failedTable (s : State) : Option Table :=
  if s.pds.pc1.zone.isNone ∨ s.pds.pc2.zone.isNone then some .carriage
  else if !strictlyRising s.scs.shifts then some .shift
  else if s.pcu.staged.isNone ∧ s.pcu.inForce.isNone then some .process
  else if !nonDecreasing s.sgv.steps then some .speedSteps
  else none

/-- The initial build in pulses (R43). -/
def initialPulses (metres : Nat) (s : State) : Nat :=
  match s.pcu.inForce with
  | some p => p.table.initialBuild metres
  | none => 0

/-- A spindle at COMMISSION (R26, R49, R110). -/
def commissionSpindle (build budget : Nat) (e : Spindle) : Spindle :=
  { e with state := if e.inUse then .idle else .blanked, rovingAbsent := false, clampClosed := false, live := .zero,
           build := if e.inUse then build else 0, sinceDoff := 0, roving := some { remaining := budget, mark := .full } }

/-- Steps 2 to 4 of COMMISSION. -/
def commissionBlocks (metres : Nat) (s : State) : State :=
  let s1 := freshSections s
  { s1 with
    spindles := s1.spindles.map (commissionSpindle (initialPulses metres s) (budget s))
    pcu := { s1.pcu with latest := .reset, frame := .zero } }

/-- Step 5: the doff sequencer (R159). -/
def commissionDoff (metres : Nat) (s : State) : State :=
  placePresent .release (placeDrive .restartPermit
    { s with
      dfs := { s.dfs with doff := some .building, build := initialPulses metres s, stop := none, grace := none,
                          parkTimer := none, doffTimer := none, stopSeen := none, parked1 := none, parked2 := none,
                          progress := 0 }
      rvm := { s.rvm with requests := [], wanting := s.rvm.wanting.map fun _ => false } })

/-- Step 7: a shift opens (R186). -/
def openShiftNow (s : State) : State := { s with scs := { s.scs with openShift := some (stampNow s) } }

def setLocked (v : Bool) (s : State) : State := { s with mfh := { s.mfh with lockedThisShift := v } }

/-- The live flags that COMMISSION and DECOMMISSION leave clear. -/
def clearJobFlags (s : State) : State :=
  clearLive .driveCapMismatch (clearLive .doffFault (clearLive .unlistedPresent (clearLive .counterSaturated s)))

/-- The nine steps of COMMISSION. -/
def commission (metres : Nat) (s : State) : State :=
  let s1 := commissionBlocks metres (bringIntoForce s)
  let s2 := openShiftNow (startGovernor (commissionDoff metres s1))
  let s3 := setLocked false (testPoolLow (clearJobFlags s2))
  { s3 with part := .commissioned }

/-- COMMISSION with its checks, in their order (R208; log entry 21). -/
def answerCommission (f : LineFrame) (s : State) : Reply :=
  if f.payload.length = 2 ∨ 50000 < initialMetres f then .fail .badValue s
  else if s.part = .commissioned then .fail .refused s
  else match failedTable s with
    | some t => .simple .refused t.id s
    | none => .ok (commission (initialMetres f) s)

/-- COMMISSION. -/
def execCommission (s : State) : Host.Outcome State Fault Refusal := finish (manage .commission answerCommission s)

/-! ## DECOMMISSION and RESTART (R209, R210) -/

/-- A command of the COMMISSIONED part state alone (R202). -/
def needsCommissioned (body : State → Reply) (s : State) : Reply :=
  if s.part = .commissioned then body s else .fail .notCommissioned s

/-- The service line and the frame link empty their queues (R109, R197). -/
def emptyQueues (s : State) : State :=
  testLevel { s with
    slc := { s.slc with rx := [], tx := { pc1 := [], pc2 := [], ad := [], rt := [] } }
    fli := { s.fli with forward := [], pass := [], drive := [] } }

/-- Every bay request is closed without notice and its record freed; the wanting marks are NO (R130). -/
def closeRequests (s : State) : State :=
  freeAll JobRecord.isBay
    { s with rvm := { s.rvm with requests := [], wanting := s.rvm.wanting.map fun _ => false } }

/-- A spindle at DECOMMISSION (R26, R49, R110). -/
def decommissionSpindle (e : Spindle) : Spindle :=
  { e with state := .blanked, rovingAbsent := false, clampClosed := false, build := 0, sinceDoff := 0, roving := none }

/-- Step 4: what is left of the blocks' job state is discarded (R49, R159, R170). -/
def discardJobs (s : State) : State :=
  clearJobFlags
    { s with
      sections := s.sections.map fun e => { e with watch := none }
      pcu := { s.pcu with latest := .reset }
      dfs := { s.dfs with doff := none, build := 0, stop := none, grace := none, parkTimer := none, doffTimer := none,
                          stopSeen := none, parked1 := none, parked2 := none, progress := 0 }
      sgv := { s.sgv with closed := [], opened := { breaks := 0, exposure := 0 }, slotTimer := none, lastRate := none,
                          governor := .normal, sinceSent := 0, mismatch := 0 }
      scs := { s.scs with openShift := none } }

/-- Each latched flag whose live flag is clear is cleared (R206). -/
def keepLatched (s : State) : State := { s with mfh := { s.mfh with latched := s.mfh.latched.keep s.mfh.live } }

/-- The six steps of DECOMMISSION. -/
def decommission (s : State) : State :=
  let s1 := emptyQueues (closeShift 0 .decommission s)
  let s2 := sweep (closeRequests (testUnlisted (closeBreaks .decommission decommissionSpindle s1)))
  let s3 := setLocked false (discardJobs s2)
  keepLatched { s3 with part := .unconfigured }

/-- DECOMMISSION. -/
def execDecommission (s : State) : Host.Outcome State Fault Refusal :=
  finish (manage .decommission (fun _ => needsCommissioned fun s => .ok (decommission s)) s)

/-- BAY_WITHDRAW for the request in service, before the requests close (R130). -/
def withdrawService (s : State) : State :=
  match (requestList s).find? fun x => x.2.phase.inService with
  | some x => place .rt (.bayWithdraw x.2.bay) s
  | none => s

/-- The doff sequencer at RESTART (R158). -/
def restartDoff (s : State) : State :=
  let s1 : State := dropMarks { s with dfs := { s.dfs with grace := none, parkTimer := none, doffTimer := none } }
  let s2 := match s.dfs.doff with
    | some .called => moveDoff .building (placePresent .release (placeDrive .restartPermit s1))
    | some .preDoff => moveDoff .building s1
    | some .restarting => moveDoff .building s1
    | _ => s1
  if carriageHold s2 then placePresent .parkCall s2 else s2

/-- The seven steps of RESTART. -/
def restart (s : State) : State :=
  let s1 := freshSections (testUnlisted (closeBreaks .restart restartSpindle (emptyQueues s)))
  let s2 := placePresent .release (sweep (closeRequests (withdrawService s1)))
  let s3 := startGovernor (withPermission restartDoff s2)
  keepLatched (callTests false allBays s3)

/-- RESTART, BUSY in DOFFING (R158, R210). -/
def answerRestart (s : State) : Reply := if s.dfs.doff = some .doffing then .fail .busy s else .ok (telling restart s)

/-- RESTART. -/
def execRestart (s : State) : Host.Outcome State Fault Refusal :=
  finish (manage .restart (fun _ => needsCommissioned answerRestart) s)

/-! ## The doff (R137, R154 to R157) -/

/-- R137. -/
def answerDoffNow (s : State) : Reply :=
  if s.dfs.doff = some .building ∨ s.dfs.doff = some .preDoff then .ok (callDoff s) else .fail .busy s

/-- DOFF_NOW. -/
def execDoffNow (s : State) : Host.Outcome State Fault Refusal :=
  finish (manage .doffNow (fun _ => needsCommissioned answerDoffNow) s)

/-- The fault is of a doff that was entered: cause DOFFER or TIMEOUT (R154). -/
def enteredFault (s : State) : Bool := s.dfs.doff = some (.fault .doffer) || s.dfs.doff = some (.fault .timeout)

/-- R155. -/
def resumeDoff (s : State) : State :=
  let s1 := place .ad .doffStart (dropMarks s)
  moveDoff .doffing { s1 with dfs := { s1.dfs with doffTimer := some s1.dfs.timers.doffTimeout } }

/-- DOFF_CLEAR RESUME. -/
def execDoffClearResume (s : State) : Host.Outcome State Fault Refusal :=
  finish (manage .doffClearResume
    (fun _ => needsCommissioned fun s => if enteredFault s then .ok (resumeDoff s) else .fail .refused s) s)

/-- DOFF_CLEAR MANUAL_DONE (R157). -/
def execDoffClearManualDone (s : State) : Host.Outcome State Fault Refusal :=
  finish (manage .doffClearManualDone
    (fun _ => needsCommissioned fun s => if enteredFault s then .ok (completeDoff (dropMarks s)) else .fail .refused s) s)

/-- R156. That the RELEASE comes before the JOB_OFFER frames of the permission is the model's choice (log entry 51). -/
def cancelDoff (s : State) : State :=
  moveDoff .building (placePresent .release (placeDrive .restartPermit (dropMarks s)))

/-- DOFF_CLEAR CANCEL. -/
def execDoffClearCancel (s : State) : Host.Outcome State Fault Refusal :=
  finish (manage .doffClearCancel
    (fun _ => needsCommissioned fun s =>
      if s.dfs.doff = some (.fault .park) then .ok (withPermission cancelDoff s) else .fail .refused s) s)

/-- DOFF_CLEAR in any doff state but DOFF_FAULT is REFUSED; in it, an option that names nothing is BAD_VALUE (R154; log
entry 21). -/
def answerClearNothing (f : LineFrame) (s : State) : Reply :=
  if f.payload.length < 2 then .fail .badValue s
  else needsCommissioned (fun s => .fail (if s.dfs.doff.any fun d => d.code = 5 then .badValue else .refused) s) s

/-- DOFF_CLEAR_OPTION_NAMING_NONE. -/
def execDoffClearOptionNamingNone (s : State) : Host.Outcome State Fault Refusal :=
  finish (manage .doffClearOptionNamingNone answerClearNothing s)

/-! ## UNLOCK, SPEED_LIMIT, APPLY_PARTITION, SHIFT_CLOSE -/

/-- A LOCKED spindle becomes IDLE with breaks since doff 0 (R25). -/
def unlocked (e : Spindle) : Spindle := if e.state = .locked then { e with state := .idle, sinceDoff := 0 } else e

/-- R25: 0 names all spindles. -/
def unlock (n : Nat) (s : State) : Reply :=
  if n = 0 then .ok { s with spindles := s.spindles.map unlocked }
  else if 1728 < n then .fail .badIndex s
  else if (spindle n s).state = .locked then .ok (modSpindle n unlocked s)
  else .fail .refused s

/-- R25 with its tests (log entry 21). -/
def answerUnlock (f : LineFrame) (s : State) : Reply :=
  if f.payload.length < 3 then .fail .badValue s else needsCommissioned (unlock (fieldAt f.payload 1 2)) s

/-- UNLOCK. -/
def execUnlock (s : State) : Host.Outcome State Fault Refusal := finish (manage .unlock answerUnlock s)

/-- The supervisor cap is set, and the effective cap recomputed while COMMISSIONED (R165). -/
def setLimit (step : Nat) (s : State) : State :=
  let s1 : State := { s with sgv := { s.sgv with supervisorCap := step } }
  if s.part = .commissioned then recap (effectiveCap s) s1 else s1

/-- R165. -/
def answerSpeedLimit (f : LineFrame) (s : State) : Reply :=
  if f.payload.length < 2 ∨ 7 < byteAt f.payload 1 then .fail .badValue s else .ok (setLimit (byteAt f.payload 1) s)

/-- SPEED_LIMIT. -/
def execSpeedLimit (s : State) : Host.Outcome State Fault Refusal := finish (manage .speedLimit answerSpeedLimit s)

/-- R60. -/
def applyPartition (s : State) : Reply :=
  match s.pool.staged with
  | none => .fail .refused s
  | some p => if partitionFits p.reserves s then .ok (sweep (putPartition p.reserves s)) else .fail .poolBusy s

/-- APPLY_PARTITION. -/
def execApplyPartition (s : State) : Host.Outcome State Fault Refusal :=
  finish (manage .applyPartition (fun _ => applyPartition) s)

/-- SHIFT_CLOSE (R182). -/
def execShiftClose (s : State) : Host.Outcome State Fault Refusal :=
  finish (manage .shiftClose (fun _ => needsCommissioned fun s => .ok (closeShift 0 .command s)) s)

/-! ## The clock (R175, R176, R179) -/

/-- R175. -/
def setClock (p : List Byte) (s : State) : State :=
  discardOwed (clearLive .clockInvalid
    { s with scs := { s.scs with hours := byteAt p 1, minutes := byteAt p 2, seconds := byteAt p 3, day := fieldAt p 4 2,
                                 sub := 0, valid := true } })

/-- R175, R212. -/
def answerClockSet (f : LineFrame) (s : State) : Reply :=
  if f.payload.length < 6 then .fail .badValue s else .ok (setClock f.payload s)

/-- CLOCK_SET. -/
def execClockSet (s : State) : Host.Outcome State Fault Refusal := finish (manage .clockSet answerClockSet s)

/-- The signed byte at offset `i`. -/
def signedAt (p : List Byte) (i : Nat) : Int := (p.getD i 0).toInt

/-- R176. -/
def answerClockTrim (f : LineFrame) (s : State) : Reply :=
  let cv := signedAt f.payload 1
  if f.payload.length < 2 ∨ cv < -64 ∨ 63 < cv then .fail .badValue s
  else if s.scs.trim = .none then .ok (setTrim (.waiting cv) s)
  else .fail .busy s

/-- CLOCK_TRIM. -/
def execClockTrim (s : State) : Host.Outcome State Fault Refusal := finish (manage .clockTrim answerClockTrim s)

/-- The clock moves to the nearest whole minute; a forward align makes the shift-close test (R179). -/
def alignClock (s : State) : State :=
  if 30 ≤ s.scs.seconds then
    shiftTest (discardOwed (setSub 0 (carryClock { s.scs with seconds := 0, minutes := s.scs.minutes + 1 } s)))
  else discardOwed (setSub 0 { s with scs := { s.scs with seconds := 0 } })

/-- R179. -/
def answerClockAlign (s : State) : Reply :=
  if !s.scs.valid || !s.scs.inRange then .fail .refused s else .ok (alignClock s)

/-- CLOCK_ALIGN. -/
def execClockAlign (s : State) : Host.Outcome State Fault Refusal :=
  finish (manage .clockAlign (fun _ => answerClockAlign) s)

/-! ## FORWARD (R192) and codes that name nothing -/

/-- The pass-busy counter rises (R192, R196). -/
def countPassBusy (s : State) : State :=
  saturated (cutShort max16 s.fli.passBusy 1) { s with fli := { s.fli with passBusy := sat max16 s.fli.passBusy 1 } }

/-- R192. -/
def answerForward (f : LineFrame) (s : State) : Reply :=
  let dest := f.payload.getD 0 0
  if f.payload.length < 7 then .fail .badValue s
  else if !isSensor dest then .fail .noRoute s
  else if !(sectionAt dest.toNat s).enabled then .fail .noRoute s
  else if s.fli.pass.length < Config.passThrough then
    .ok (downBegin { s with fli := { s.fli with pass := s.fli.pass ++ [f.payload] } })
  else .fail .busy (countPassBusy s)

/-- FORWARD. -/
def execForward (s : State) : Host.Outcome State Fault Refusal := finish (manage .forward answerForward s)

/-- COMMAND_CODE_NAMING_NONE (R202). -/
def execCommandCodeNamingNone (s : State) : Host.Outcome State Fault Refusal :=
  finish (manage .commandCodeNamingNone (fun _ s => .fail .badValue s) s)

end Sys2Proof.Machine
end

