-- ==== Sys2Proof/Machine/Dispatch.lean ====
section
/-! DEFINITION. The commands' dispatch: one arm for each row of spec/opcode_table.json. -/

namespace Sys2Proof.Machine

def exec (i : Instr) (s : State) : Host.Outcome State Fault Refusal :=
  match i with
  | .powerOnReset carrier => Sys2Proof.Machine.execPowerOnReset carrier s
  | .survey bytes => Sys2Proof.Machine.execSurvey bytes s
  | .driveReport bytes => Sys2Proof.Machine.execDriveReport bytes s
  | .sensorReply bytes => Sys2Proof.Machine.execSensorReply bytes s
  | .frameLinkFrameDiscarded bytes => Sys2Proof.Machine.execFrameLinkFrameDiscarded bytes s
  | .downLinkFrameEnd => Sys2Proof.Machine.execDownLinkFrameEnd s
  | .carrierDetectRise => Sys2Proof.Machine.execCarrierDetectRise s
  | .carrierDetectFall heard => Sys2Proof.Machine.execCarrierDetectFall heard s
  | .gapPartElapsed quietMs => Sys2Proof.Machine.execGapPartElapsed quietMs s
  | .serviceFrameEnd => Sys2Proof.Machine.execServiceFrameEnd s
  | .agentSilenceExpiry agent => Sys2Proof.Machine.execAgentSilenceExpiry agent s
  | .agentStatus => Sys2Proof.Machine.execAgentStatus s
  | .jobAccept => Sys2Proof.Machine.execJobAccept s
  | .jobDecline => Sys2Proof.Machine.execJobDecline s
  | .jobResult => Sys2Proof.Machine.execJobResult s
  | .parked => Sys2Proof.Machine.execParked s
  | .doffProgress => Sys2Proof.Machine.execDoffProgress s
  | .doffDone => Sys2Proof.Machine.execDoffDone s
  | .doffFault => Sys2Proof.Machine.execDoffFault s
  | .bayAccept => Sys2Proof.Machine.execBayAccept s
  | .bayDone => Sys2Proof.Machine.execBayDone s
  | .bayRefused => Sys2Proof.Machine.execBayRefused s
  | .millLinkFrameReceived bytes => Sys2Proof.Machine.execMillLinkFrameReceived bytes s
  | .millLinkFrameEnd => Sys2Proof.Machine.execMillLinkFrameEnd s
  | .subSecondStep => Sys2Proof.Machine.execSubSecondStep s
  | .secondEvent => Sys2Proof.Machine.execSecondEvent s
  | .acceptDeadlineExpiry record => Sys2Proof.Machine.execAcceptDeadlineExpiry record s
  | .resultDeadlineExpiry record => Sys2Proof.Machine.execResultDeadlineExpiry record s
  | .verifyDeadlineExpiry record => Sys2Proof.Machine.execVerifyDeadlineExpiry record s
  | .bayAcceptDeadlineExpiry bay => Sys2Proof.Machine.execBayAcceptDeadlineExpiry bay s
  | .bayTimeoutExpiry bay => Sys2Proof.Machine.execBayTimeoutExpiry bay s
  | .retryTimerExpiry bay => Sys2Proof.Machine.execRetryTimerExpiry bay s
  | .parkTimerExpiry => Sys2Proof.Machine.execParkTimerExpiry s
  | .doffTimerExpiry => Sys2Proof.Machine.execDoffTimerExpiry s
  | .slotEnd => Sys2Proof.Machine.execSlotEnd s
  | .graceEnd bytes => Sys2Proof.Machine.execGraceEnd bytes s
  | .lampBlinkPhaseEnd lamp => Sys2Proof.Machine.execLampBlinkPhaseEnd lamp s
  | .sectionTableWrite => Sys2Proof.Machine.execSectionTableWrite s
  | .spindleTableWrite => Sys2Proof.Machine.execSpindleTableWrite s
  | .carriageTableWrite => Sys2Proof.Machine.execCarriageTableWrite s
  | .processTableWrite => Sys2Proof.Machine.execProcessTableWrite s
  | .detectionTableWrite => Sys2Proof.Machine.execDetectionTableWrite s
  | .rovingMarksTableWrite => Sys2Proof.Machine.execRovingMarksTableWrite s
  | .doffTimersTableWrite => Sys2Proof.Machine.execDoffTimersTableWrite s
  | .stopActionTableWrite => Sys2Proof.Machine.execStopActionTableWrite s
  | .governorTableWrite => Sys2Proof.Machine.execGovernorTableWrite s
  | .speedStepTableWrite => Sys2Proof.Machine.execSpeedStepTableWrite s
  | .shiftTableWrite => Sys2Proof.Machine.execShiftTableWrite s
  | .serviceLineTableWrite => Sys2Proof.Machine.execServiceLineTableWrite s
  | .partitionTableWrite => Sys2Proof.Machine.execPartitionTableWrite s
  | .noticeMaskWrite => Sys2Proof.Machine.execNoticeMaskWrite s
  | .lampTableWrite => Sys2Proof.Machine.execLampTableWrite s
  | .tableWrite => Sys2Proof.Machine.execTableWrite s
  | .tableRead => Sys2Proof.Machine.execTableRead s
  | .frameLive => Sys2Proof.Machine.execFrameLive s
  | .spindleLive => Sys2Proof.Machine.execSpindleLive s
  | .spindlePrev => Sys2Proof.Machine.execSpindlePrev s
  | .history => Sys2Proof.Machine.execHistory s
  | .roving => Sys2Proof.Machine.execRoving s
  | .records => Sys2Proof.Machine.execRecords s
  | .statusRead => Sys2Proof.Machine.execStatusRead s
  | .statusReadClear => Sys2Proof.Machine.execStatusReadClear s
  | .commission => Sys2Proof.Machine.execCommission s
  | .decommission => Sys2Proof.Machine.execDecommission s
  | .restart => Sys2Proof.Machine.execRestart s
  | .doffNow => Sys2Proof.Machine.execDoffNow s
  | .doffClearResume => Sys2Proof.Machine.execDoffClearResume s
  | .doffClearManualDone => Sys2Proof.Machine.execDoffClearManualDone s
  | .doffClearCancel => Sys2Proof.Machine.execDoffClearCancel s
  | .unlock => Sys2Proof.Machine.execUnlock s
  | .speedLimit => Sys2Proof.Machine.execSpeedLimit s
  | .applyPartition => Sys2Proof.Machine.execApplyPartition s
  | .shiftClose => Sys2Proof.Machine.execShiftClose s
  | .clockSet => Sys2Proof.Machine.execClockSet s
  | .clockTrim => Sys2Proof.Machine.execClockTrim s
  | .clockAlign => Sys2Proof.Machine.execClockAlign s
  | .forward => Sys2Proof.Machine.execForward s
  | .commandCodeNamingNone => Sys2Proof.Machine.execCommandCodeNamingNone s
  | .selectorNamingNone => Sys2Proof.Machine.execSelectorNamingNone s
  | .doffClearOptionNamingNone => Sys2Proof.Machine.execDoffClearOptionNamingNone s

end Sys2Proof.Machine
end

