-- ==== Sys2Proof/Safety.lean ====
section
/-! DEFINITION. What a safe run is, in the terms the statements use: a step goes on, and the invariants that every step of
the part keeps. -/

namespace Sys2Proof.Safety

open Sys2Proof.Machine

/-- The step goes on: no command stops the part. -/
def goesOn (s : State) : Prop := ∃ t, step s = .next t

/-- Every queue and list of fixed capacity holds at most its capacity: the service-line receive queue (R99), the four source
transmit queues (R102), the forward, pass-through and drive-command queues (R191 to R193), the mill-link receive queue
(R198), the shift history list (R185) and the closed slots of the break window (R160). -/
structure QueuesFit (s : State) : Prop where
  rx : s.slc.rx.length ≤ 20
  pc1 : s.slc.tx.pc1.length ≤ 4
  pc2 : s.slc.tx.pc2.length ≤ 4
  ad : s.slc.tx.ad.length ≤ 4
  rt : s.slc.tx.rt.length ≤ 4
  forward : s.fli.forward.length ≤ 16
  pass : s.fli.pass.length ≤ 8
  drive : s.fli.drive.length ≤ 4
  mill : s.mfh.rx.length ≤ 8
  history : s.scs.history.length ≤ 4
  closed : s.sgv.closed.length ≤ 16

/-- A latched flag is set whenever its live flag is (R206). -/
def LatchedCovers (s : State) : Prop := ∀ c : Cond, s.mfh.live.get c = true → s.mfh.latched.get c = true

/-- The tables and arrays have the sizes the spec gives the part. -/
structure SizesHold (s : State) : Prop where
  sections : s.sections.length = 72
  spindles : s.spindles.length = 1728
  records : s.pool.records.length = 512
  wanting : s.rvm.wanting.length = 72
  stops : s.dfs.stops.length = 8
  steps : s.sgv.steps.length = 8
  shifts : s.scs.shifts.length = 4
  mask : s.mfh.mask.length = 14
  brk : s.mfh.lampTable.brk.length ≤ 4
  rovingLamp : s.mfh.lampTable.roving.length ≤ 4
  doffLamp : s.mfh.lampTable.doff.length ≤ 4

/-- Every lamp is OFF while the part is UNCONFIGURED (R207). -/
def DarkUnconfigured (s : State) : Prop := s.part = .unconfigured → ∀ l : Lamp, lampOutput l s = false

/-- Every creel position holds between 0 and the budget in force (R110). -/
def RovingFits (s : State) : Prop := ∀ e ∈ s.spindles, ∀ r : Roving, e.roving = some r → r.remaining ≤ budget s

/-- The caps are steps: a LIMIT step lies from 0 to 6, and the supervisor cap, the cap last sent and the entry step are
steps of their ranges (R162, R164, R165, R167). -/
structure CapsLegal (s : State) : Prop where
  limit : ∀ k, s.sgv.governor = .limit k → k ≤ 6
  supervisor : s.sgv.supervisorCap ≤ 7
  sent : s.sgv.lastSent ≤ 7
  entry : s.sgv.table.entryStep ≤ 6

/-- The sub-second count is one of 0 to 255, and a correction value held is one of −64 to +63 (R172, R176). -/
structure SubSecondFits (s : State) : Prop where
  sub : s.scs.sub ≤ 255
  waiting : ∀ cv, s.scs.trim = .waiting cv → -64 ≤ cv ∧ cv ≤ 63
  owing : ∀ cv, s.scs.trim = .owing cv → -64 ≤ cv ∧ cv ≤ 63

/-- The reserves of the partition in force, and of a staged one, leave a shared portion of the 512 records, and the classes
together overflow their reserves by no more than it (R51, R59, R60). -/
structure PoolFits (s : State) : Prop where
  reserves : s.pool.reserves.sum ≤ 512
  staged : ∀ p, s.pool.staged = some p → p.reserves.sum ≤ 512
  overflow : overflowSum s.pool.reserves s ≤ 512 - s.pool.reserves.sum

/-! ## Frames: what a command leaves unchanged -/

/-- An area of the state that a frame statement speaks of. -/
inductive Area where
  | part
  | sectionTable | watches
  | spindleTable | spindleStates | flags | liveCounts | prevCounts | builds | sinceDoff | roving
  | detection
  | latest | production | breakCounts | doffCounts | baysDone | lost | inForce | staged
  | jobs | noticeRecords | reserves | stagedPartition
  | carriageTables | carriageStatus | tags
  | line | serviceRx | serviceTx | sourcePointer | presence | serviceTable | serviceErrors | drops
  | marks | requests | wanting | transportMode
  | doff | build | doffTimers | stops | stop | grace | parkTimer | doffTimer | parkingMarks | progress | doffer
  | governorTable | steps | window | openSlot | slotTimer | lastRate | governor | supervisorCap | capSent
  | time | valid | trim | shifts | openShift | history
  | forward | pass | drive | down | linkErrors
  | frameNumber | millRx | slot | millTx | millPointer | notices | noticeNumber | mask
  | cond (c : Cond)
  | lampTable | lamps | locked | millErrors
  | freeCount | pending
  deriving DecidableEq, Repr

/-- The record, unless it is a notice. -/
def onlyJob : Option JobRecord → Option JobRecord
  | some (.notice _) => none
  | r => r

/-- The record, if it is a notice. -/
def onlyNotice : Option JobRecord → Option JobRecord
  | some (.notice n) => some (.notice n)
  | _ => none

/-- The break records and bay requests of the pool, by record number. -/
def jobsOf (s : State) : List (Option JobRecord) := s.pool.records.map onlyJob

/-- The shift's production counters and downtime. -/
def productionOf (f : FrameCounters) : List Nat :=
  [f.running, f.producing, f.waste, f.available, f.producingMs, f.unmonitored, f.downtime.d0, f.downtime.d1,
   f.downtime.d2, f.downtime.d3]

/-- A carriage's table entry (R66). -/
def carriageTable (u : CarriageUnit) : Option Zone × Nat × Nat × Nat × Bool :=
  (u.zone, u.acceptTimeout, u.resultTimeout, u.maxAttempts, u.enabled)

/-- A carriage's status (R67). -/
def carriageReport (u : CarriageUnit) : Nat × Direction × AgentMode := (u.position, u.direction, u.mode)

/-- The area holds in `t` what it held in `s`. -/
def Area.same (a : Area) (s t : State) : Prop :=
  match a with
  | .part => t.part = s.part
  | .sectionTable => t.sections.map (fun e => (e.enabled, e.mode)) = s.sections.map fun e => (e.enabled, e.mode)
  | .watches => t.sections.map Section.watch = s.sections.map Section.watch
  | .spindleTable =>
    t.spindles.map (fun e => (e.inUse, e.clampFitted)) = s.spindles.map fun e => (e.inUse, e.clampFitted)
  | .spindleStates => t.spindles.map Spindle.state = s.spindles.map Spindle.state
  | .flags =>
    t.spindles.map (fun e => (e.rovingAbsent, e.clampClosed)) = s.spindles.map fun e => (e.rovingAbsent, e.clampClosed)
  | .liveCounts => t.spindles.map Spindle.live = s.spindles.map Spindle.live
  | .prevCounts => t.spindles.map Spindle.prev = s.spindles.map Spindle.prev
  | .builds => t.spindles.map Spindle.build = s.spindles.map Spindle.build
  | .sinceDoff => t.spindles.map Spindle.sinceDoff = s.spindles.map Spindle.sinceDoff
  | .roving => t.spindles.map Spindle.roving = s.spindles.map Spindle.roving
  | .detection => t.detection = s.detection
  | .latest => t.pcu.latest = s.pcu.latest
  | .production => productionOf t.pcu.frame = productionOf s.pcu.frame
  | .breakCounts =>
    (t.pcu.frame.openedRun, t.pcu.frame.openedStartup, t.pcu.frame.carriedIn, t.pcu.frame.closures)
      = (s.pcu.frame.openedRun, s.pcu.frame.openedStartup, s.pcu.frame.carriedIn, s.pcu.frame.closures)
  | .doffCounts =>
    (t.pcu.frame.doffs, t.pcu.frame.fullCops, t.pcu.frame.partialCops)
      = (s.pcu.frame.doffs, s.pcu.frame.fullCops, s.pcu.frame.partialCops)
  | .baysDone => t.pcu.frame.baysDone = s.pcu.frame.baysDone
  | .lost => t.pcu.frame.noticesLost = s.pcu.frame.noticesLost
  | .inForce => t.pcu.inForce = s.pcu.inForce
  | .staged => t.pcu.staged = s.pcu.staged
  | .jobs => jobsOf t = jobsOf s
  | .noticeRecords => t.pool.records.map onlyNotice = s.pool.records.map onlyNotice
  | .reserves => t.pool.reserves = s.pool.reserves
  | .stagedPartition => t.pool.staged = s.pool.staged
  | .carriageTables => ∀ c : Carriage, carriageTable (carriage c t) = carriageTable (carriage c s)
  | .carriageStatus => ∀ c : Carriage, carriageReport (carriage c t) = carriageReport (carriage c s)
  | .tags => ∀ c : Carriage, (carriage c t).nextTag = (carriage c s).nextTag
  | .line => t.slc.line = s.slc.line
  | .serviceRx => t.slc.rx = s.slc.rx
  | .serviceTx => t.slc.tx = s.slc.tx
  | .sourcePointer => t.slc.pointer = s.slc.pointer
  | .presence => t.slc.presence = s.slc.presence
  | .serviceTable => t.slc.table = s.slc.table
  | .serviceErrors =>
    (t.slc.rxError, t.slc.rxOverflow, t.slc.clash) = (s.slc.rxError, s.slc.rxOverflow, s.slc.clash)
  | .drops => t.slc.txDrop = s.slc.txDrop
  | .marks => t.rvm.marks = s.rvm.marks
  | .requests => t.rvm.requests = s.rvm.requests
  | .wanting => t.rvm.wanting = s.rvm.wanting
  | .transportMode => t.rvm.mode = s.rvm.mode
  | .doff => t.dfs.doff = s.dfs.doff
  | .build => t.dfs.build = s.dfs.build
  | .doffTimers => t.dfs.timers = s.dfs.timers
  | .stops => t.dfs.stops = s.dfs.stops
  | .stop => t.dfs.stop = s.dfs.stop
  | .grace => t.dfs.grace = s.dfs.grace
  | .parkTimer => t.dfs.parkTimer = s.dfs.parkTimer
  | .doffTimer => t.dfs.doffTimer = s.dfs.doffTimer
  | .parkingMarks =>
    (t.dfs.stopSeen, t.dfs.parked1, t.dfs.parked2) = (s.dfs.stopSeen, s.dfs.parked1, s.dfs.parked2)
  | .progress => t.dfs.progress = s.dfs.progress
  | .doffer => t.dfs.doffer = s.dfs.doffer
  | .governorTable => t.sgv.table = s.sgv.table
  | .steps => t.sgv.steps = s.sgv.steps
  | .window => t.sgv.closed = s.sgv.closed
  | .openSlot => t.sgv.opened = s.sgv.opened
  | .slotTimer => t.sgv.slotTimer = s.sgv.slotTimer
  | .lastRate => t.sgv.lastRate = s.sgv.lastRate
  | .governor => t.sgv.governor = s.sgv.governor
  | .supervisorCap => t.sgv.supervisorCap = s.sgv.supervisorCap
  | .capSent =>
    (t.sgv.lastSent, t.sgv.sinceSent, t.sgv.mismatch) = (s.sgv.lastSent, s.sgv.sinceSent, s.sgv.mismatch)
  | .time =>
    (t.scs.hours, t.scs.minutes, t.scs.seconds, t.scs.day, t.scs.sub)
      = (s.scs.hours, s.scs.minutes, s.scs.seconds, s.scs.day, s.scs.sub)
  | .valid => t.scs.valid = s.scs.valid
  | .trim => t.scs.trim = s.scs.trim
  | .shifts => t.scs.shifts = s.scs.shifts
  | .openShift => t.scs.openShift = s.scs.openShift
  | .history => t.scs.history = s.scs.history
  | .forward => t.fli.forward = s.fli.forward
  | .pass => t.fli.pass = s.fli.pass
  | .drive => t.fli.drive = s.fli.drive
  | .down => t.fli.down = s.fli.down
  | .linkErrors =>
    (t.fli.rxError, t.fli.unknownSection, t.fli.forwardDrop, t.fli.passBusy, t.fli.commandDrop)
      = (s.fli.rxError, s.fli.unknownSection, s.fli.forwardDrop, s.fli.passBusy, s.fli.commandDrop)
  | .frameNumber => t.mfh.frameNumber = s.mfh.frameNumber
  | .millRx => t.mfh.rx = s.mfh.rx
  | .slot => t.mfh.slot = s.mfh.slot
  | .millTx => t.mfh.tx = s.mfh.tx
  | .millPointer => t.mfh.pointer = s.mfh.pointer
  | .notices => t.mfh.notices = s.mfh.notices
  | .noticeNumber => t.mfh.noticeNumber = s.mfh.noticeNumber
  | .mask => t.mfh.mask = s.mfh.mask
  | .cond c => t.mfh.live.get c = s.mfh.live.get c ∧ t.mfh.latched.get c = s.mfh.latched.get c
  | .lampTable => t.mfh.lampTable = s.mfh.lampTable
  | .lamps => t.mfh.lamps = s.mfh.lamps
  | .locked => t.mfh.lockedThisShift = s.mfh.lockedThisShift
  | .millErrors => (t.mfh.rxError, t.mfh.rxOverflow) = (s.mfh.rxError, s.mfh.rxOverflow)
  | .freeCount => t.freeCount = s.freeCount
  | .pending => t.pending = s.pending

/-- Every area outside those named holds in `t` what it held in `s`. -/
structure Kept (touched : List Area) (s t : State) : Prop where
  same : ∀ a : Area, a ∉ touched → a.same s t

/-- What the raising of notices may touch (R204, R55, R56, R37): the pool's notice records and the notices lost, the
notice queue and number, the two conditions that a grant, a refusal or a full counter can make rise, and the mill-link
transmitter with the queues it begins its next frame from (R203). -/
def reports : List Area :=
  [.noticeRecords, .lost, .notices, .noticeNumber, .cond .poolLow, .cond .counterSaturated, .millTx, .millPointer, .slot,
   .forward, .freeCount]

/-- What the placing of a frame for an agent may touch (R95, R102, R103). -/
def sends : List Area := [.line, .serviceTx, .sourcePointer, .drops]

/-- What the placing of a drive command may touch (R193, R194). -/
def drives : List Area := [.drive, .pass, .down, .linkErrors]

/-- What the roving monitor's call and offer tests may touch (R118 to R122). -/
def callings : List Area := .jobs :: .requests :: .wanting :: (sends ++ reports)

/-- What the offering and requeueing of PIECE records may touch (R69, R70, R75 to R77). -/
def offers : List Area := .jobs :: .spindleStates :: .tags :: (sends ++ reports)

/-- What a pass of the UNLISTED sweep may touch (R57). -/
def sweeps : List Area :=
  .jobs :: .spindleStates :: .tags :: .roving :: .requests :: .wanting :: .cond .unlistedPresent ::
    (sends ++ reports)

/-- What the closing of a break may touch (R6, R53, R79). -/
def closings : List Area := .breakCounts :: .locked :: sweeps

/-- What the taking of a survey may touch (R3, R9 to R18). -/
def surveys : List Area := .watches :: .flags :: .liveCounts :: .sinceDoff :: .openSlot :: closings

/-- What the placing of SPEED_CAP may touch (R167). -/
def capSends : List Area := .capSent :: drives ++ reports

/-- What a change of the doff state may touch besides (R133). -/
def doffMoves : List Area := .doff :: .cond .doffFault :: reports

/-- What the calling of the doff may touch (R136). -/
def doffCalls : List Area := .parkingMarks :: .parkTimer :: .stop :: (sends ++ drives ++ doffMoves)

/-- What DOFFING entry may touch (R140). -/
def doffEntries : List Area :=
  .parkingMarks :: .parkTimer :: .doffTimer :: .progress :: .doffCounts :: .builds :: .sinceDoff :: .inForce ::
    .staged :: .reserves :: .stagedPartition :: (doffMoves ++ closings)

/-- What the taking of a drive report may touch (R33). -/
def driveReports : List Area :=
  .latest :: .production :: .liveCounts :: .watches :: .build :: .grace :: .openSlot :: .capSent ::
    .cond .driveCapMismatch :: (doffCalls ++ doffEntries)

/-- What the close of a shift may touch (R183). -/
def shiftCloses : List Area :=
  .production :: .breakCounts :: .doffCounts :: .baysDone :: .liveCounts :: .prevCounts :: .history ::
    .openShift :: .locked :: reports

/-- What a second event may touch (R172, R173): the clock, every timer and deadline, and a shift close. -/
def secondEvents : List Area := .time :: .jobs :: .presence :: .parkTimer :: .doffTimer :: .slotTimer :: shiftCloses

/-! ## Counters cut short -/

/-- An addition that would carry a counter past its top has been cut short: COUNTER_SATURATED is live, and latched if it was
not live before (R37, R206). -/
structure Saturated (s t : State) : Prop where
  live : t.mfh.live.counterSaturated = true
  latched : s.mfh.live.counterSaturated = false → t.mfh.latched.counterSaturated = true

/-! ## Frames on their way -/

/-- The frame in transmission to an agent, if there is one (R103). -/
def onAir (a : Agent) (s : State) : List SvcMsg :=
  match s.slc.line with
  | .transmitting d f _ _ => if d = a then [f.msg] else []
  | _ => []

/-- The frames on their way to an agent, in order: the one in transmission to it, then its source queue (R102, R103). -/
def outgoing (a : Agent) (s : State) : List SvcMsg := onAir a s ++ (s.slc.tx.get a).map SvcFrame.msg

/-- From `s` to `t` one frame was placed for agent `a`: it is the last on its way to the agent, or the agent's queue was
full and the transmit-drop counter of the source rose, which at its top sets COUNTER_SATURATED (R102, R106). -/
structure Placed (a : Agent) (m : SvcMsg) (s t : State) : Prop where
  sent : (s.slc.tx.get a).length < 4 → outgoing a t = outgoing a s ++ [m] ∧ t.slc.txDrop = s.slc.txDrop
  dropped : 4 ≤ (s.slc.tx.get a).length →
    outgoing a t = outgoing a s ∧ t.slc.txDrop.get a = min 65535 (s.slc.txDrop.get a + 1)
  others : ∀ b, b ≠ a → outgoing b t = outgoing b s ∧ t.slc.txDrop.get b = s.slc.txDrop.get b
  full : 4 ≤ (s.slc.tx.get a).length → 65535 ≤ s.slc.txDrop.get a → Saturated s t

/-- The drive command in transmission down the frame link, if there is one (R194). -/
def goingDown (s : State) : List DriveCmd :=
  match s.fli.down with
  | some (.command c) => [c]
  | _ => []

/-- The drive commands on their way down the frame link, in order (R193, R194). -/
def driveLine (s : State) : List DriveCmd := goingDown s ++ s.fli.drive

/-- From `s` to `t` one drive command was placed: it is the last on its way, or the queue was full and the command-drop
counter rose (R193). -/
structure DriveQueued (c : DriveCmd) (s t : State) : Prop where
  sent : s.fli.drive.length < 4 → driveLine t = driveLine s ++ [c] ∧ t.fli.commandDrop = s.fli.commandDrop
  dropped : 4 ≤ s.fli.drive.length →
    driveLine t = driveLine s ∧ t.fli.commandDrop = min 65535 (s.fli.commandDrop + 1)

/-- And where the command-drop counter stood at its top COUNTER_SATURATED is set (R196). -/
structure Driven (c : DriveCmd) (s t : State) : Prop extends DriveQueued c s t where
  full : 4 ≤ s.fli.drive.length → 65535 ≤ s.fli.commandDrop → Saturated s t

/-- The forwarded frames on their way up the mill link, in order (R191, R203). -/
def upward (s : State) : List MillFrame :=
  (match s.mfh.tx with
    | some { source := .forward, frame } => [{ kind := frame.kind, seq := frame.seq, payload := frame.payload }]
    | _ => [])
    ++ s.fli.forward

/-- From `s` to `t` one frame was forwarded: it is the last on its way up the mill link, or the forward queue was full and
the forward-drop counter rose, which at its top sets COUNTER_SATURATED (R191, R196). -/
structure Forwarded (f : MillFrame) (s t : State) : Prop where
  sent : s.fli.forward.length < 16 → upward t = upward s ++ [f] ∧ t.fli.forwardDrop = s.fli.forwardDrop
  dropped : 16 ≤ s.fli.forward.length → upward t = upward s ∧ t.fli.forwardDrop = min 65535 (s.fli.forwardDrop + 1)
  full : 16 ≤ s.fli.forward.length → 65535 ≤ s.fli.forwardDrop → Saturated s t

/-- The forward queue can be judged by its length in `s`: it has room, or the mill link is busy, so that no frame leaves it
meanwhile. -/
def forwardSteady (s : State) : Prop := s.fli.forward.length < 16 ∨ s.mfh.tx ≠ none

/-- The notices on their way up the mill link, by record, in order: the one in transmission, then the notice queue (R203,
R204). -/
def noticeLine (s : State) : List Nat :=
  (match s.mfh.tx with
    | some { source := .notice r, frame := _ } => [r]
    | _ => [])
    ++ s.mfh.notices

/-- Every notice of `s` still holds its record, and the notices on their way are still so, in their order, with any new ones
behind them (R204). -/
structure NoticesStand (s t : State) : Prop where
  records : ∀ r n, recordAt r s = some (.notice n) → recordAt r t = some (.notice n)
  queue : ∃ more, noticeLine t = noticeLine s ++ more

/-! ## Surveys (R3, R8 to R15) -/

/-- Entry `i` of a survey (12.3). -/
def entryOf (f : LineFrame) (i : Nat) : SurveyEntry := surveyEntry (fieldAt f.payload (4 + 2 * i) 2)

/-- The spindle of entry `i` (00_scope 5.1). -/
def spindleOf (f : LineFrame) (i : Nat) : Nat := 24 * (byteAt f.payload 0 - 1) + 1 + i

/-- The pulse count the survey is judged by (R8). -/
def expectedOf (f : LineFrame) (s : State) : Nat :=
  s.pcu.latest.speed * max 100 (min 2000 (fieldAt f.payload 2 2)) / 60000

/-- Entry `i` reads low (R10). -/
def readsLow (f : LineFrame) (i : Nat) (s : State) : Bool :=
  (entryOf f i).rovingAbsent || decide ((entryOf f i).pulses * 1000 < expectedOf f s * s.detection.breakFloor)

/-- Entry `i` reads slow (R10). -/
def readsSlow (f : LineFrame) (i : Nat) (s : State) : Bool :=
  !readsLow f i s && decide ((entryOf f i).pulses * 1000 < expectedOf f s * s.detection.slipFloor)

/-- A reading of a spindle in this state confirms, heals and verifies no break (R12, R16, R18). -/
def plain (confirmCount healConfirm : Nat) (low : Bool) : SpindleState → Prop
  | .blanked | .locked => True
  | .idle | .running => low = true → 2 ≤ confirmCount
  | .suspect k _ => low = true → k + 1 < confirmCount
  | .broken good | .offered good | .rovingWait good | .unlisted good _ _ => low = false → good + 1 < healConfirm
  | .verify => False

/-- The state that such a reading leaves: a spindle with an open break keeps it, and a low reading sets its good count to 0,
any other adds one to it (R12, R13, R16, R19). -/
def afterPlain (low : Bool) : SpindleState → SpindleState
  | .idle => if low then .suspect 1 true else .running
  | .running => if low then .suspect 1 false else .running
  | .suspect k fromIdle => if low then .suspect (k + 1) fromIdle else .running
  | .broken good => .broken (if low then 0 else good + 1)
  | .offered good => .offered (if low then 0 else good + 1)
  | .rovingWait good => .rovingWait (if low then 0 else good + 1)
  | .unlisted good note origin => .unlisted (if low then 0 else good + 1) note origin
  | st => st

/-- The spindle of entry `i` after a survey that reads it plainly: an entry with a sensor fault and a BLANKED spindle are
passed over, and a slow reading counts a slip (R9, R11, R12, R13, R19). -/
def afterEntry (f : LineFrame) (i : Nat) (s : State) : Spindle :=
  let e := entryOf f i
  let x := spindle (spindleOf f i) s
  if e.sensorFault = true ∨ x.state = .blanked then x
  else { x with rovingAbsent := e.rovingAbsent, clampClosed := e.clampClosed, state := afterPlain (readsLow f i s) x.state,
                live := if readsSlow f i s = true ∧ x.state ≠ .locked then
                    { x.live with slip := min 65535 (x.live.slip + 1) }
                  else x.live }

/-- A low reading of a spindle in this state confirms a break (R12). -/
def confirmed (confirmCount : Nat) : SpindleState → Prop
  | .idle | .running => confirmCount ≤ 1
  | .suspect k _ => confirmCount ≤ k + 1
  | _ => False

/-- The from-idle mark of the break then confirmed (R12, R14). -/
def markedIdle : SpindleState → Bool
  | .idle => true
  | .suspect _ fromIdle => fromIdle
  | _ => false

/-- The survey reaches the classifier of a commissioned part, from an enabled section (R187, R189). -/
structure Surveyed (bytes : List Byte) (f : LineFrame) (s : State) : Prop where
  good : judgeFrameLink bytes = .good f
  survey : f.kind = 0x10
  part : s.part = .commissioned
  enabled : (sectionAt (byteAt f.payload 0) s).enabled = true

/-- And its entries are read: the section is LIVE, the survey is no repeat, and 16 pulses or more are expected (R3, R8). -/
structure Classified (bytes : List Byte) (f : LineFrame) (s : State) : Prop extends Surveyed bytes f s where
  live : ∃ w, (sectionAt (byteAt f.payload 0) s).watch = some w ∧ w.silent = false
    ∧ w.kept ≠ some (byteAt f.payload 1)
  expected : 16 ≤ expectedOf f s

/-- No break record but `r` is of spindle `n`, and every other PIECE record names a spindle of the array (R6, R64). -/
structure Alone (r n : Nat) (s : State) : Prop where
  low : 1 ≤ n
  high : n ≤ s.spindles.length
  only : ∀ q p', recordAt q s = some (.piece p') → q ≠ r → 1 ≤ p'.spindle ∧ p'.spindle ≠ n
  holds : ∀ q h, recordAt q s = some (.hold h) → q ≠ r → h.spindle ≠ n

/-- A reading of a spindle in this state heals it (R16). -/
def heals (healConfirm : Nat) (low : Bool) : SpindleState → Prop
  | .broken good | .offered good | .rovingWait good | .unlisted good _ _ => low = false ∧ healConfirm ≤ good + 1
  | _ => False

/-- The survey's entries are read: the section is SILENT or the survey no repeat, and 16 pulses or more are expected (R3,
R8). -/
structure IsRead (f : LineFrame) (s : State) : Prop where
  fresh : ∀ w, (sectionAt (byteAt f.payload 0) s).watch = some w → w.silent = true ∨ w.kept ≠ some (byteAt f.payload 1)
  expected : 16 ≤ expectedOf f s

/-- The state in which entry `i` of a survey is taken, the section dealt with and the entries before it taken. -/
def beforeEntry (f : LineFrame) (i : Nat) (s : State) : State :=
  (takeEntries (expectedOf f s) (spindleOf f 0) ((List.range i).map (entryOf f)) (meetSection (surveyOf f.payload) s).1).state

/-- `code` is the state that the classifier's own work on entry `i` leaves, taken in state `b`: that of a plain reading; RUNNING
by a heal or a verification; BROKEN or LOCKED by a failed verification; and by a confirmed break LOCKED for a rogue, or else
ROVING_WAIT without roving and BROKEN with it, or UNLISTED where the pool refuses (R9, R12 to R16, R18, R21, R79). -/
structure LeavesCode (f : LineFrame) (i : Nat) (s b : State) (code : Nat) : Prop where
  passed : (entryOf f i).sensorFault = true → code = (spindle (spindleOf f i) b).state.code
  plain : (entryOf f i).sensorFault = false →
    Safety.plain s.detection.confirmCount s.detection.healConfirm (readsLow f i s) (spindle (spindleOf f i) b).state →
    code = (afterPlain (readsLow f i s) (spindle (spindleOf f i) b).state).code
  healed : (entryOf f i).sensorFault = false →
    heals s.detection.healConfirm (readsLow f i s) (spindle (spindleOf f i) b).state → code = 2
  verified : (entryOf f i).sensorFault = false → (spindle (spindleOf f i) b).state = .verify → readsLow f i s = false → code = 2
  failed : ∀ r p, (entryOf f i).sensorFault = false → (spindle (spindleOf f i) b).state = .verify → readsLow f i s = true →
    recordAt r b = some (.piece p) → p.spindle = spindleOf f i → Alone r (spindleOf f i) b →
    code = if p.attempts + 1 < (carriage p.carriage b).maxAttempts then 4 else 9
  broken : (entryOf f i).sensorFault = false → readsLow f i s = true → spindleOf f i ≤ b.spindles.length →
    confirmed s.detection.confirmCount (spindle (spindleOf f i) b).state →
    if s.detection.rogueLimit ≠ 0 ∧ s.detection.rogueLimit ≤ min 255 ((spindle (spindleOf f i) b).sinceDoff + 1) then code = 9
    else code = 8 ∨ code = if (entryOf f i).rovingAbsent then 7 else 4

/-- The section has been dealt with: LIVE, with age 0 and the survey's sequence kept, and every other section as it was
(R3). -/
structure Met (f : LineFrame) (s t : State) : Prop where
  watch : (sectionAt (byteAt f.payload 0) t).watch
    = some { silent := false, age := 0, kept := some (byteAt f.payload 1) }
  others : ∀ b, b ≠ byteAt f.payload 0 → 1 ≤ b → sectionAt b t = sectionAt b s

/-- From `s` to `t` one break of spindle `n` was confirmed. It is counted once, by its origin, in the shift, in the spindle's
counts and, for RUN_BREAK, in the governor's open slot. A rogue spindle is LOCKED and its break closed LOCK; any other is left
with an open break, and its record, of class HOLD where the reading found no roving, is asked of the pool. A count or closure
that its counter's top cuts short sets COUNTER_SATURATED (R14, R15, R37). -/
structure Confirmed (n : Nat) (startup noRoving : Bool) (s t : State) : Prop where
  openedRun : t.pcu.frame.openedRun = if startup then s.pcu.frame.openedRun else min 65535 (s.pcu.frame.openedRun + 1)
  openedStartup : t.pcu.frame.openedStartup
    = if startup then min 65535 (s.pcu.frame.openedStartup + 1) else s.pcu.frame.openedStartup
  slot : t.sgv.opened.breaks = if startup then s.sgv.opened.breaks else min 65535 (s.sgv.opened.breaks + 1)
  sinceDoff : (spindle n t).sinceDoff = min 255 ((spindle n s).sinceDoff + 1)
  breaks : (spindle n t).live.breaks = min 255 ((spindle n s).live.breaks + 1)
  rogue : s.detection.rogueLimit ≠ 0 → s.detection.rogueLimit ≤ min 255 ((spindle n s).sinceDoff + 1) →
    (spindle n t).state = .locked ∧ t.mfh.lockedThisShift = true ∧ jobsOf t = jobsOf s
      ∧ t.pcu.frame.closures = { s.pcu.frame.closures with lock := min 65535 (s.pcu.frame.closures.lock + 1) }
      ∧ (65535 ≤ s.pcu.frame.closures.lock → Saturated s t)
  full : (if startup then 65535 ≤ s.pcu.frame.openedStartup
      else 65535 ≤ s.pcu.frame.openedRun ∨ 65535 ≤ s.sgv.opened.breaks)
    ∨ 255 ≤ (spindle n s).sinceDoff ∨ 255 ≤ (spindle n s).live.breaks → Saturated s t
  other : (s.detection.rogueLimit = 0 ∨ min 255 ((spindle n s).sinceDoff + 1) < s.detection.rogueLimit) →
    (spindle n t).state.openBreak = true ∧ t.mfh.lockedThisShift = s.mfh.lockedThisShift
      ∧ t.pcu.frame.closures = s.pcu.frame.closures
      ∧ (noRoving = false → inUse .piece s < s.pool.reserves.piece → 32 ≤ freeRecords s →
          ((spindle n t).state = .broken 0 ∨ (spindle n t).state = .offered 0)
          ∧ ∃ r p, recordAt r t = some (.piece p) ∧ p.spindle = n ∧ p.opened = stampNow s ∧ p.attempts = 0
              ∧ p.origin = if startup then .startup else .runBreak)
      ∧ (noRoving = true → inUse .hold s < s.pool.reserves.hold → 32 ≤ freeRecords s →
          (spindle n t).state = .rovingWait 0
          ∧ ∃ r, recordAt r t = some (.hold { spindle := n, opened := stampNow s
                                              origin := if startup then .startup else .runBreak }))

/-! ## Records of a carriage -/

/-- The record is in OFFERED or ACCEPTED with this tag. -/
def tagged (t : Nat) (p : PieceRecord) : Bool :=
  match p.phase with
  | .offered tag _ | .accepted tag _ => tag = t
  | _ => false

/-- Record `r` is the one that a frame from carriage `c` with tag `t` matches (R77, R80). -/
structure Matches (c : Carriage) (t r : Nat) (p : PieceRecord) (s : State) : Prop where
  record : recordAt r s = some (.piece p)
  carriage : p.carriage = c
  tag : tagged t p = true
  only : ∀ q p', recordAt q s = some (.piece p') → p'.carriage = c → tagged t p' = true → q = r

/-- No record matches a frame from carriage `c` with tag `t`. -/
def NoMatch (c : Carriage) (t : Nat) (s : State) : Prop :=
  ∀ q p', recordAt q s = some (.piece p') → p'.carriage = c → tagged t p' = false

/-- What the taking of an agent's frame may touch besides its effect (R100, R101, R207). -/
def takings : List Area := .serviceRx :: .cond .slcLevel :: .lamps :: reports

/-- The frame at the head of the receive queue has left it, and SLC_LEVEL follows the occupancy (R100, R101). -/
structure Left (rest : List RxFrame) (s t : State) : Prop where
  queue : t.slc.rx = rest
  level : t.mfh.live.slcLevel = decide (s.slc.table.levelThreshold < rest.length)

/-- The mode an agent's status gives it: a code that names none leaves it as it was (R67, R121, R144). -/
def modeFrom (code : Nat) (old : AgentMode) : AgentMode :=
  if code = 0 then .working else if code = 1 then .parked else if code = 2 then .fault else old

/-- A notice was raised: it holds a record that was free, with the next number and the time of its raising (R204). -/
def Raised (k : NoticeKind) (args : List Int) (s t : State) : Prop :=
  ∃ r, recordAt r s = none
    ∧ recordAt r t = some (.notice { kind := k, number := s.mfh.noticeNumber, stamp := stampNow s, args := args })

/-- Nothing in the state is a PIECE record. -/
def NoPieces (s : State) : Prop := ∀ q p, recordAt q s ≠ some (.piece p)

/-- The breaks open in the state (R6). -/
def openBreaks (s : State) : Nat := s.spindles.countP fun e => e.state.openBreak

/-- The record of the shift open in `s`, closed with this day number, index, reason and end stamp, stands first in the
history list, its counters those of `s` (R48, R183 to R185). -/
def Filed (day index : Nat) (reason : CloseReason) (finish : Stamp) (s t : State) : Prop :=
  ∃ r, t.scs.history = (r :: s.scs.history).take 4 ∧ r.day = day ∧ r.index = index ∧ r.reason = reason
    ∧ r.start = s.scs.openShift.join ∧ r.finish = finish ∧ r.counters = s.pcu.frame
    ∧ r.converted = convert s.pcu.inForce s.pcu.frame ∧ r.openAtClose = openBreaks s

/-- The open shift was closed and filed, the live counters moved, and a new shift is open from its end stamp. Notices lost
of the new shift may have risen by the notice of the close itself. The close has cleared the live flag COUNTER_SATURATED, and
its latched flag stays (R37, R48, R183, R206). -/
structure ShiftFiled (day index : Nat) (reason : CloseReason) (finish : Stamp) (s t : State) : Prop where
  filed : Filed day index reason finish s t
  opened : t.scs.openShift = some finish
  production : productionOf t.pcu.frame = List.replicate 10 0
  counts : t.pcu.frame.openedRun = 0 ∧ t.pcu.frame.openedStartup = 0 ∧ t.pcu.frame.closures = Closures.zero
    ∧ t.pcu.frame.doffs = 0 ∧ t.pcu.frame.fullCops = 0 ∧ t.pcu.frame.partialCops = 0 ∧ t.pcu.frame.baysDone = 0
  carried : t.pcu.frame.carriedIn = openBreaks s
  moved : t.spindles.map Spindle.prev = s.spindles.map Spindle.live
  zeroed : ∀ e ∈ t.spindles, e.live = { pulses := 0, breaks := 0, slip := 0 }
  unlocked : t.mfh.lockedThisShift = false
  unsaturated : t.mfh.live.counterSaturated = false ∧ t.mfh.latched.counterSaturated = s.mfh.latched.counterSaturated

/-- Spindle `n` was locked out for its attempts: it is LOCKED and holds no record, and its break is closed LOCK, which at
the counter's top sets COUNTER_SATURATED (R37, R79). -/
structure LockedOut (n : Nat) (s t : State) : Prop where
  state : (spindle n t).state = .locked
  record : ∀ q p, recordAt q t = some (.piece p) → p.spindle ≠ n
  closed : t.pcu.frame.closures = { s.pcu.frame.closures with lock := min 65535 (s.pcu.frame.closures.lock + 1) }
  lamp : t.mfh.lockedThisShift = true
  full : 65535 ≤ s.pcu.frame.closures.lock → Saturated s t

/-- The time of day and the day number (R172). -/
def clockFace (c : Scs) : Nat × Nat × Nat × Nat := (c.hours, c.minutes, c.seconds, c.day)

/-- The time of day and the day number after a second event, its four steps in order (R172). -/
def timeAfter (c : Scs) : Nat × Nat × Nat × Nat :=
  let minutes := if 60 ≤ c.seconds + 1 then c.minutes + 1 else c.minutes
  let hours := if 60 ≤ minutes then c.hours + 1 else c.hours
  (if 24 ≤ hours then 0 else hours, if 60 ≤ minutes then 0 else minutes,
    if 60 ≤ c.seconds + 1 then 0 else c.seconds + 1, if 24 ≤ hours then min 65535 (c.day + 1) else c.day)

/-- Seconds of day of a time of day. -/
def daySeconds (time : Nat × Nat × Nat × Nat) : Nat := time.1 * 3600 + time.2.1 * 60 + time.2.2.1

/-- A second event carries its hours into a day number that stands at its top and stays there (R172). -/
def dayStays (c : Scs) : Bool :=
  let minutes := if 60 ≤ c.seconds + 1 then c.minutes + 1 else c.minutes
  let hours := if 60 ≤ minutes then c.hours + 1 else c.hours
  decide (24 ≤ hours ∧ c.day = 65535)

/-- The time of day after a second event is no start time of a shift whose close the event would bring (R181). -/
def noShiftStarts (s : State) : Prop :=
  s.part = .unconfigured ∨ s.scs.valid = false ∨ some (daySeconds (timeAfter s.scs)) ∉ s.scs.shifts

/-- A full second event was taken: the time of day advanced, and every deadline and timer lost one second. A day number that
would pass its top sets COUNTER_SATURATED, which a shift close alone would clear again (R172, R173). -/
structure Ticked (s t : State) : Prop where
  time : clockFace t.scs = timeAfter s.scs
  jobs : jobsOf t = (jobsOf s).map (Option.map JobRecord.counted)
  agents : ∀ a : Agent, t.slc.presence.get a = (s.slc.presence.get a).map fun left => left - 1
  park : t.dfs.parkTimer = s.dfs.parkTimer.map fun left => left - 1
  doff : t.dfs.doffTimer = s.dfs.doffTimer.map fun left => left - 1
  slot : t.sgv.slotTimer = s.sgv.slotTimer.map fun left => left - 1
  stuck : dayStays s.scs = true → noShiftStarts s → Saturated s t

/-! ## Table entries as the rules allow them -/

def legalDetection (d : Detection) : Prop :=
  100 ≤ d.breakFloor ∧ d.breakFloor ≤ 900 ∧ 100 ≤ d.slipFloor ∧ d.slipFloor ≤ 1000 ∧ d.breakFloor ≤ d.slipFloor
    ∧ 1 ≤ d.confirmCount ∧ d.confirmCount ≤ 4 ∧ 1 ≤ d.healConfirm ∧ d.healConfirm ≤ 4 ∧ d.rogueLimit ≤ 63
    ∧ 4 ≤ d.silenceLimit ∧ d.silenceLimit ≤ 64

def legalMarks (m : RovingMarks) : Prop :=
  1 ≤ m.lowMark ∧ m.lowMark ≤ 500 ∧ 1 ≤ m.predoffMark ∧ m.predoffMark ≤ 1000 ∧ 1 ≤ m.batchCount ∧ m.batchCount ≤ 24
    ∧ 10 ≤ m.retryDelay ∧ m.retryDelay ≤ 600 ∧ 60 ≤ m.bayTimeout ∧ m.bayTimeout ≤ 1800

def legalDoffTimers (d : DoffTimers) : Prop :=
  10 ≤ d.parkTimeout ∧ d.parkTimeout ≤ 300 ∧ 60 ≤ d.doffTimeout ∧ d.doffTimeout ≤ 1800 ∧ d.grace ≤ 120

def legalGovernor (g : GovernorTable) : Prop :=
  30 ≤ g.slotLen ∧ g.slotLen ≤ 600 ∧ 10000 ≤ g.minExposure ∧ g.minExposure ≤ 10000000 ∧ 1 ≤ g.rateLimit
    ∧ g.rateLimit ≤ 9999 ∧ g.hysteresis < g.rateLimit ∧ g.entryStep ≤ 6 ∧ g.floorStep ≤ g.entryStep

def legalServiceLine (t : ServiceTable) : Prop :=
  2 ≤ t.gapPart ∧ t.gapPart ≤ 20 ∧ 1 ≤ t.levelThreshold ∧ t.levelThreshold ≤ 19 ∧ 2 ≤ t.agentSilence
    ∧ t.agentSilence ≤ 60

def legalPartition (p : StagedPartition) : Prop :=
  1 ≤ p.reserves.piece ∧ 1 ≤ p.reserves.hold ∧ 1 ≤ p.reserves.bay ∧ 1 ≤ p.reserves.notice
    ∧ p.reserves.piece ≤ 508 ∧ p.reserves.hold ≤ 508 ∧ p.reserves.bay ≤ 508 ∧ p.reserves.notice ≤ 508
    ∧ p.reserves.piece + p.reserves.hold + p.reserves.bay + p.reserves.notice ≤ 512

def legalProcess (t : ProcessTable) : Prop :=
  10000 ≤ t.pulseLength ∧ t.pulseLength ≤ 999999 ∧ t.contraction ≤ 150 ∧ 1000 ≤ t.draft ∧ t.draft ≤ 8000
    ∧ 300 ≤ t.centitex ∧ t.centitex ≤ 20000 ∧ 200 ≤ t.rovingLength ∧ t.rovingLength ≤ 4000
    ∧ 500 ≤ t.copTarget ∧ t.copTarget ≤ 50000 ∧ t.warnMargin < t.copTarget ∧ 500 ≤ t.fullCop ∧ t.fullCop ≤ 1000
    ∧ t.target ≤ 4294967295

def legalStopAction (a : StopAction) : Prop := a.downtimeClass ≤ 3

def legalCarriage (e : CarriageEntry) : Prop :=
  1 ≤ e.zone.first ∧ e.zone.first ≤ e.zone.last ∧ e.zone.last ≤ 1728 ∧ 1 ≤ e.acceptTimeout ∧ e.acceptTimeout ≤ 10
    ∧ 10 ≤ e.resultTimeout ∧ e.resultTimeout ≤ 600 ∧ 1 ≤ e.maxAttempts ∧ e.maxAttempts ≤ 7

/-- A carriage entry as bytes (12.5). -/
def carriageEntryBytes (e : CarriageEntry) : List Byte :=
  be 2 e.zone.first ++ be 2 e.zone.last ++ b1 e.acceptTimeout ++ be 2 e.resultTimeout ++ b1 e.maxAttempts
    ++ b1 (yesNo e.enabled)

/-- An item of a lamp names an indication of that lamp, and a QUEUED item an N from 1 to 1,728 (R207). -/
def legalItem (lamp : Lamp) (i : LampItem) : Prop :=
  match lamp, i.indication with
  | .brk, .queued n => 1 ≤ n ∧ n ≤ 1728
  | .brk, .unlisted | .brk, .lockedThisShift => True
  | .roving, .overrun | .roving, .urgent | .roving, .opened => True
  | .doff, .preDoff | .doff, .calledOrDoffing | .doff, .fault => True
  | _, _ => False

def legalBlink (x : Blink) : Prop := 1 ≤ x.on ∧ x.on ≤ 64 ∧ 1 ≤ x.off ∧ x.off ≤ 64

/-- The value lies outside `lo` to `hi`. -/
def outside (lo hi v : Nat) : Prop := v < lo ∨ hi < v

/-- Item `k` of entry `i` of the lamp table names no indication of its lamp, has an N outside 1 to 1,728 in QUEUED, or names
no pattern (R207, 12.5). -/
def itemRefused (i : Nat) (e : List Byte) (k : Nat) : Prop :=
  outside (3 * i) (3 * i + 2) (byteAt e (1 + 4 * k))
    ∨ byteAt e (1 + 4 * k) = 0 ∧ outside 1 1728 (fieldAt e (2 + 4 * k) 2)
    ∨ 3 < byteAt e (4 + 4 * k)

/-- The bytes of entry `i` of a table hold a field outside the range its owning rule gives, or fail a test between fields
(R1, R4, R7, R38, R59, R66, R93, R111, R132, R147, R162, R166, R180, R207, and the layouts of 12.5). -/
def entryRefused (t : Table) (i : Nat) (e : List Byte) : Prop :=
  match t with
  | .sectionTable => 1 < byteAt e 0 ∨ 2 < byteAt e 1
  | .spindle => 1 < byteAt e 0 ∨ 1 < byteAt e 1
  | .carriage =>
    outside 1 1728 (fieldAt e 0 2) ∨ outside (fieldAt e 0 2) 1728 (fieldAt e 2 2) ∨ outside 1 10 (byteAt e 4)
      ∨ outside 10 600 (fieldAt e 5 2) ∨ outside 1 7 (byteAt e 7) ∨ 1 < byteAt e 8
  | .process =>
    outside 10000 999999 (fieldAt e 0 4) ∨ 150 < fieldAt e 4 2 ∨ outside 1000 8000 (fieldAt e 6 2)
      ∨ outside 300 20000 (fieldAt e 8 2) ∨ outside 200 4000 (fieldAt e 10 2) ∨ outside 500 50000 (fieldAt e 12 2)
      ∨ fieldAt e 12 2 ≤ fieldAt e 14 2 ∨ fieldAt e 16 2 ≠ 0 ∧ outside 500 1000 (fieldAt e 16 2)
      ∨ 4294967295 * (fieldAt e 0 4 * (1000 - fieldAt e 4 2)) < fieldAt e 12 2 * 10 ^ 12
  | .detection =>
    outside 100 900 (fieldAt e 0 2) ∨ outside 100 1000 (fieldAt e 2 2) ∨ fieldAt e 2 2 < fieldAt e 0 2
      ∨ outside 1 4 (byteAt e 4) ∨ outside 1 4 (byteAt e 5) ∨ 63 < byteAt e 6 ∨ outside 4 64 (byteAt e 7)
  | .marks =>
    outside 1 500 (fieldAt e 0 2) ∨ outside 1 1000 (fieldAt e 2 2) ∨ outside 1 24 (byteAt e 4)
      ∨ outside 10 600 (fieldAt e 5 2) ∨ outside 60 1800 (fieldAt e 7 2)
  | .doffTimers => outside 10 300 (fieldAt e 0 2) ∨ outside 60 1800 (fieldAt e 2 2) ∨ 120 < byteAt e 4
  | .stopAction => 3 < byteAt e 0 ∨ 2 < byteAt e 1 ∨ 1 < byteAt e 2 ∨ 1 < byteAt e 3
  | .governor =>
    outside 30 600 (fieldAt e 0 2) ∨ outside 10000 10000000 (fieldAt e 2 4) ∨ outside 1 9999 (fieldAt e 6 2)
      ∨ fieldAt e 6 2 ≤ fieldAt e 8 2 ∨ 6 < byteAt e 10 ∨ byteAt e 10 < byteAt e 11
  | .speedSteps => 30000 < fieldAt e 0 2
  | .shift => fieldAt e 0 4 ≠ 0xFFFFFFFF ∧ 86399 < fieldAt e 0 4
  | .serviceLine => outside 2 20 (byteAt e 0) ∨ outside 1 19 (byteAt e 1) ∨ outside 2 60 (byteAt e 2)
  | .partition =>
    outside 1 508 (fieldAt e 0 2) ∨ outside 1 508 (fieldAt e 2 2) ∨ outside 1 508 (fieldAt e 4 2)
      ∨ outside 1 508 (fieldAt e 6 2) ∨ 1 < byteAt e 8
      ∨ 512 < fieldAt e 0 2 + fieldAt e 2 2 + fieldAt e 4 2 + fieldAt e 6 2
  | .noticeMask => False
  | .lamp =>
    if i = 3 then outside 1 64 (byteAt e 0) ∨ outside 1 64 (byteAt e 1) ∨ outside 1 64 (byteAt e 2)
      ∨ outside 1 64 (byteAt e 3)
    else 4 < byteAt e 0 ∨ ∃ k, k < byteAt e 0 ∧ itemRefused i e k

/-- The start times in use form a strictly rising run from entry 1 (R180). -/
def RisingRun (l : List (Option Nat)) : Prop :=
  ∃ (starts : List Nat) (unused : Nat), starts ≠ [] ∧ starts.Pairwise (fun x y => x < y)
    ∧ l = starts.map some ++ List.replicate unused none

/-! ## Management frames -/

/-- The frame `f` stands at the head of the mill-link receive queue and the response slot is empty: it is executed next
(R199). -/
def Ready (f : LineFrame) (rest : List LineFrame) (s : State) : Prop := s.mfh.rx = f :: rest ∧ s.mfh.slot = none

/-- The frame has been executed: it has left the receive queue, and its RESPONSE with this payload waits in the response
slot or is in transmission up the mill link (R199, R203). -/
def Answered (f : LineFrame) (rest : List LineFrame) (payload : List Byte) (t : State) : Prop :=
  t.mfh.rx = rest
    ∧ (t.mfh.slot = some (responseTo f payload)
      ∨ t.mfh.slot = none ∧ ∃ n, t.mfh.frameNumber = some n
          ∧ t.mfh.tx = some { source := .response, frame := (responseTo f payload).wire n })

/-- What the answering of a management frame may touch, besides what the command itself does. -/
def answers : List Area := [.millRx, .slot, .millTx, .lamps]

/-- The answer to a COUNTS_READ or STATUS_READ from item `start` on: OK, the selector, the next item or the end mark, and as
many whole items as fit (R201, 12.4). -/
def itemsAnswer (selector start : Nat) (items : List (List Byte)) : List Byte :=
  let taken := fitting 56 (items.drop start)
  0 :: BitVec.ofNat 8 selector ::
    ((if items.length ≤ start + taken.length then [0xFF, 0xFF] else be 2 (start + taken.length)) ++ taken.flatten)

/-- The inner frames on their way down the frame link, in order (R192, R194). -/
def passLine (s : State) : List (List Byte) :=
  (match s.fli.down with
    | some (.inner p) => [p]
    | _ => [])
    ++ s.fli.pass

/-- The positions of a bay's request that a BAY_DONE with these offsets reports replaced (R124, R212). -/
def replacedOf (q : BayRequest) (offsets : List Nat) : List Nat :=
  q.positions.filter fun n => decide (∃ o ∈ offsets, 1 ≤ o ∧ o ≤ 24 ∧ n = 24 * (q.bay - 1) + o)

/-- The spindles after a BAY_DONE that reports the positions of the spindles `ns` replaced, none of them ROVING_WAIT: their
positions are refilled, and an UNLISTED one loses its note (R115, R124). -/
def refilled (ns : List Nat) (s : State) : List Spindle :=
  s.spindles.mapIdx fun i e => if i + 1 ∈ ns then
      { e with roving := e.roving.map fun _ => { remaining := budget s, mark := .full }
               state := match e.state with
                 | .unlisted good _ origin => .unlisted good false origin
                 | st => st }
    else e

/-- A bay request newly created in `s`'s second, perhaps already offered (R119, R122). -/
def FreshRequest (q : BayRequest) (s : State) : Prop :=
  q.created = stampNow s ∧ (q.phase = .waiting ∨ q.phase = .offered 5)

/-- The carriages stand held, DOFFING apart: the doff stands faulted, or the stop in force has park mark YES (R152). -/
def heldStill (s : State) : Bool :=
  s.dfs.doff.any (fun d => decide (d.code = 5)) || s.dfs.stop.any fun st => st.parkMark

/-- The doff state holds the carriages: DOFF_CALLED, DOFFING or DOFF_FAULT (R152). -/
def doffHolds (s : State) : Bool := s.dfs.doff.any fun d => decide (d.code = 2 ∨ d.code = 3 ∨ d.code = 5)

/-- The carriages stand held: by the doff state, or by a stop in force with park mark YES (R152). -/
def carriagesHeld (s : State) : Bool := doffHolds s || s.dfs.stop.any fun st => st.parkMark

/-- The frame is a JOB_OFFER. -/
def isOffer : SvcMsg → Bool
  | .jobOffer _ _ _ _ => true
  | _ => false

/-- The carriage a record of spindle `n` is assigned to: of two candidates the one that is PRESENT, or else the nearer one,
PC1 on equal distances; a sole candidate, PRESENT or not; none without a candidate (R69). -/
def assignedTo (n : Nat) (s : State) : Option Carriage :=
  let near := if (carriage .pc2 s).distance n < (carriage .pc1 s).distance n then Carriage.pc2 else .pc1
  match (carriage .pc1 s).candidate n, (carriage .pc2 s).candidate n with
  | false, false => none
  | true, false => some .pc1
  | false, true => some .pc2
  | true, true =>
    match present .pc1 s, present .pc2 s with
    | true, false => some .pc1
    | false, true => some .pc2
    | _, _ => some near

/-- The record assigned afresh: QUEUED with skip NO, or unserved on carriage 1 (R69). -/
def reassigned (p : PieceRecord) (s : State) : PieceRecord :=
  match assignedTo p.spindle s with
  | some d => { p with carriage := d, phase := .queued false false }
  | none => { p with carriage := .pc1, phase := .queued true false }

/-- The record withdrawn from its window: QUEUED with skip NO on its own carriage while that serves its spindle, and assigned
afresh otherwise (R70, R88). -/
def requeued (p : PieceRecord) (s : State) : PieceRecord :=
  if (carriage p.carriage s).candidate p.spindle then { p with phase := .queued false false } else reassigned p s

/-- Record `r` is `p`, or `p` was eligible and has been offered (R75, R77). -/
def Stands (p : PieceRecord) (r : Nat) (t : State) : Prop :=
  recordAt r t = some (.piece p)
    ∨ p.phase = .queued false false ∧ ∃ tag left, recordAt r t = some (.piece { p with phase := .offered tag left })

/-- Record `r` is `p` and its spindle BROKEN with good count 0, or `p` was eligible and has been offered, and its spindle is
OFFERED (R70, R75, R77). -/
def CameBack (p : PieceRecord) (r : Nat) (t : State) : Prop :=
  recordAt r t = some (.piece p) ∧ (spindle p.spindle t).state = .broken 0
    ∨ p.phase = .queued false false ∧ (spindle p.spindle t).state = .offered 0
        ∧ ∃ tag left, recordAt r t = some (.piece { p with phase := .offered tag left })

/-! ## The UNLISTED sweep (R57) -/

/-- The UNLISTED spindles in ascending order, each with its NO_ROVING note (R57). -/
def unlistedOf (s : State) : List (Nat × Bool) :=
  (List.range s.spindles.length).filterMap fun i => match (spindle (i + 1) s).state with
    | .unlisted _ note _ => some (i + 1, note)
    | _ => none

/-- Of spindles that ask in turn for a record, a HOLD one where noted and a PIECE one otherwise, those that the pool grants one,
with `used` records of the classes in use under the reserves `p` (R51, R52, R57). -/
def handedOf (p used : Partition) : List (Nat × Bool) → List Nat
  | [] => []
  | (n, note) :: rest =>
    let within := if note then decide (used.hold < p.hold) else decide (used.piece < p.piece)
    let overflow := (used.piece - p.piece) + (used.hold - p.hold) + (used.bay - p.bay) + (used.notice - p.notice)
    if within || decide (p.sum + overflow < 512) then
      n :: handedOf p (if note then { used with hold := used.hold + 1 } else { used with piece := used.piece + 1 }) rest
    else handedOf p used rest

/-- The UNLISTED spindles that a pass beginning in `b` hands a record, in the order it hands them (R57). -/
def handed (b : State) : List Nat :=
  handedOf b.pool.reserves
    { piece := inUse .piece b, hold := inUse .hold b, bay := inUse .bay b, notice := inUse .notice b } (unlistedOf b)

/-- The numbers of the free records, ascending (R50). -/
def freeNumbers (b : State) : List Nat := (List.range b.pool.records.length).filter fun r => (recordAt r b).isNone

/-- A pass beginning in `b` handed spindle `n` record `x`: a new PIECE record, assigned and perhaps offered, or where the
spindle's break is noted a new HOLD record, its position then EMPTY (R55, R57, R69, R114). -/
structure Handed (n x : Nat) (b t : State) : Prop where
  piece : ∀ good origin, (spindle n b).state = .unlisted good false origin →
    CameBack (reassigned { spindle := n, origin := origin, opened := stampNow b, carriage := .pc1, attempts := 0,
                           phase := .queued true false } b) x t
  hold : ∀ good origin, (spindle n b).state = .unlisted good true origin →
    (spindle n t).state = .rovingWait 0
      ∧ recordAt x t = some (.hold { spindle := n, origin := origin, opened := stampNow b })
      ∧ ∀ e, (spindle n b).roving = some e → (spindle n t).roving = some { e with mark := .empty }

/-- From `b` to `t` a pass of the UNLISTED sweep was made: the spindles took their turns in ascending order, each that was
handed a record took the lowest-numbered one then free, every other stays UNLISTED, and UNLISTED_PRESENT follows (R20, R50,
R57). -/
structure Swept (b t : State) : Prop where
  served : ∀ i n : Nat, (handed b)[i]? = some n → ∃ x : Nat, (freeNumbers b)[i]? = some x ∧ Handed n x b t
  passed : ∀ n, 1 ≤ n → n ∉ handed b → (spindle n b).state.isUnlisted = true →
    (spindle n t).state = (spindle n b).state
  flag : t.mfh.live.unlistedPresent = t.spindles.any fun e => e.state.isUnlisted

/-- The pool has its 512 records within their shares, and no PIECE record is of an UNLISTED spindle or of none (R5, R50, R51,
R64). -/
structure Sweepable (s : State) : Prop where
  records : s.pool.records.length = 512
  pool : PoolFits s
  linked : ∀ q p, recordAt q s = some (.piece p) → 1 ≤ p.spindle ∧ (spindle p.spindle s).state.isUnlisted = false

/-- A JOB_CANCEL for each record in the window of carriage `c` (R88, R140), in rising record number: an order the spec does not
give, the model's (log entry 19). -/
def openOffers (c : Carriage) (s : State) : List SvcMsg :=
  s.pool.records.filterMap fun j => match j with
    | some (.piece p) => if p.carriage = c then
        match p.phase with
        | .offered tag _ | .accepted tag _ => some (.jobCancel tag)
        | _ => none
      else none
    | _ => none

/-- Carriage `c` has a record it may be offered, and nothing but the sequencer's permission is missing (R75). -/
structure MayOffer (c : Carriage) (s : State) : Prop where
  enabled : (carriage c s).enabled = true
  present : present c.agent s = true
  working : (carriage c s).mode = .working
  window : (openOffers c s).length < 2
  record : ∃ r p, recordAt r s = some (.piece p) ∧ p.carriage = c ∧ p.phase = .queued false false
    ∧ (carriage c s).covers p.spindle = true

/-- The sweep distance from a carriage to a spindle of its zone: along its direction of travel from its position, brought into
the zone, and past the end of the zone for a spindle behind it (R68). -/
def sweepTo (u : CarriageUnit) (n : Nat) : Nat :=
  match u.zone with
  | none => 0
  | some z =>
    let at' := max z.first (min u.position z.last)
    match u.direction with
    | .up => if at' ≤ n then n - at' else z.last - at' + (z.last - n)
    | .down => if n ≤ at' then at' - n else at' - z.first + (n - z.first)

/-- Record `r` is `p` and stands in the queue of carriage `c`, in its zone and with skip NO, or with skip YES where the carriage
has just turned (R74, R75). -/
structure InQueue (c : Carriage) (turned : Bool) (r : Nat) (p : PieceRecord) (s : State) : Prop where
  record : recordAt r s = some (.piece p)
  owner : p.carriage = c
  phase : p.phase = .queued false false ∨ turned = true ∧ p.phase = .queued false true
  covered : (carriage c s).covers p.spindle = true

/-- Of the queue of carriage `c`, which stands as `u`, record `r` is the first in the order of R73 among those that satisfy
`among`. -/
structure NextInQueue (c : Carriage) (turned : Bool) (u : CarriageUnit) (among : Nat → Prop) (r : Nat) (p : PieceRecord)
    (s : State) : Prop extends InQueue c turned r p s where
  member : among r
  nearest : ∀ q p', InQueue c turned q p' s → among q → q ≠ r → sweepTo u p.spindle < sweepTo u p'.spindle

/-- The record after a write that changed the zone or the enabled field of carriage `c`, the tables standing as written: an
unserved record is assigned afresh, and so is a QUEUED record of `c` that `c` no longer serves, or one in the window of a `c`
that has been disabled, both of which the other carriage alone can serve; any other stays (R71, steps 1 to 3). -/
def afterZone (c : Carriage) (disabled : Bool) (p : PieceRecord) (t : State) : PieceRecord :=
  let moves := match p.phase with
    | .queued unserved _ => unserved || p.carriage = c && !(carriage c t).candidate p.spindle
    | .offered _ _ | .accepted _ _ => p.carriage = c && disabled
    | .verifying _ => false
  if moves then reassigned p t else p

/-! ## Drive reports and the doff (R134 to R151) -/

/-- The stop in force parks and releases the carriages by itself: BUILDING, PRE_DOFF or RESTARTING (R150). -/
def stopFree (s : State) : Bool := s.dfs.doff.any fun d => decide (d.code = 0 ∨ d.code = 1 ∨ d.code = 4)

/-- The stop in force after a report of this run state and stop code (R148, R150, R151). -/
def stopAfter (run : RunState) (code : Nat) (s : State) : Option Stop :=
  match run with
  | .running => none
  | .ramping => s.dfs.stop
  | .stopped =>
    if s.dfs.stop.any (fun st => decide (st.code = code)) then s.dfs.stop
    else some { code := code, parkMark := (stopAction code s).park && stopFree s, doffOwned := doffHolds s }

/-- The frames that the stop in force places for each PRESENT carriage: PARK_CALL as a park mark comes, RELEASE as it goes
(R150, R151). -/
def stopFrames (run : RunState) (code : Nat) (s : State) : List SvcMsg :=
  let before := s.dfs.stop.any fun st => st.parkMark
  let after := (stopAfter run code s).any fun st => st.parkMark
  if !stopFree s || before = after then [] else if after then [.parkCall] else [.release]

/-- The report ends a stop that arms the grace (R151). -/
def armsAtStopEnd (run : RunState) (s : State) : Bool :=
  run = .running && (s.dfs.doff = some .building || s.dfs.doff = some .preDoff)
    && s.dfs.stop.any fun st => !st.doffOwned && (stopAction st.code s).graceOnRestart

/-- The count of the grace timer after the report, none when it is inactive (R145, R151). -/
def graceAfter (run : RunState) (ms : Nat) (s : State) : Option Nat :=
  if armsAtStopEnd run s then some (s.dfs.timers.grace * 1000)
  else match run, s.dfs.grace with
    | .stopped, left => left
    | _, some left => if left ≤ ms then none else some (left - ms)
    | _, none => none

/-- The doff state that the threshold test finds: the end of the grace makes RESTARTING BUILDING (R145). -/
def doffAtTest (run : RunState) (ms : Nat) (s : State) : Option Doff :=
  if s.dfs.doff = some .restarting ∧ s.dfs.grace ≠ none ∧ graceAfter run ms s = none then some .building else s.dfs.doff

/-- The report, which left the build counter at `build`, calls the doff (R134). -/
def reportCalls (run : RunState) (ms build : Nat) (s : State) : Bool :=
  (doffAtTest run ms s = some .building || doffAtTest run ms s = some .preDoff)
    && s.pcu.inForce.any fun p => p.target ≤ build

/-- The report takes BUILDING to PRE_DOFF (R134). -/
def reportWarns (run : RunState) (ms build : Nat) (s : State) : Bool :=
  !reportCalls run ms build s && doffAtTest run ms s = some .building
    && s.pcu.inForce.any fun p => p.target - p.warn ≤ build

/-- The report is the stopped one that completes the wait, every PRESENT carriage having parked (R138). -/
def reportCompletes (run : RunState) (s : State) : Bool :=
  run = .stopped && s.dfs.doff = some .called
    && [Carriage.pc1, .pc2].all fun c => !present c.agent s || parkMark c s = some true

/-- What a report of this run state leaves of a creel position that held `e`: a running report draws its pulses from every
consuming position (R113). -/
def leftAfter (run : RunState) (pulses n : Nat) (e : Roving) (s : State) : Nat :=
  let x := spindle n s
  if run ≠ .stopped ∧ x.state ≠ .blanked ∧ x.state.isRovingWait = false ∧ x.clampClosed = false
      ∧ (x.state ≠ .locked ∨ x.clampFitted = false) then e.remaining - pulses
  else e.remaining

/-- A record in a window is of the spindle at place `i` of the array, which starts at spindle 1. -/
def windowHolds (i : Nat) (s : State) : Bool :=
  s.pool.records.any fun j => match j with
    | some (.piece p) => p.phase.inWindow && p.spindle - 1 == i
    | _ => false

/-- The spindles after a report that withdraws every open offer, if it does: each spindle whose record was in a window is
BROKEN with good count 0 (R88). -/
def afterWithdrawal (cancels : Bool) (s : State) : List Spindle :=
  s.spindles.mapIdx fun i e => if cancels && windowHolds i s then { e with state := .broken 0 } else e

/-- The roving budget of a process table (R44). -/
def budgetOf (x : ProcessTable) : Nat := min 4294967295 (x.rovingLength * 10 ^ 7 * x.draft / x.pulseLength)

/-- A creel position as the table `x` comes into force: its count rescaled to the new budget and marked afresh, an EMPTY one
keeping its mark (R112, R116). -/
def rescaled (x : ProcessTable) (s : State) (e : Roving) : Roving :=
  let left := e.remaining * budgetOf x / budget s
  { remaining := left
    mark := if e.mark = .empty then .empty else if left = 0 then .overrun
      else if left * 1000 ≤ budgetOf x * s.rvm.marks.lowMark then .low else .full }

/-- Open breaks that DOFFING entry closes DOFF (R23, R140). -/
def doffClosures (before : List Spindle) : Nat := before.countP fun e => e.state.openBreak && !e.state.isRovingWait

/-- Spindles, the BLANKED apart, whose build has begun and satisfies `p` (R141). -/
def copsWhere (p : Nat → Bool) (before : List Spindle) : Nat :=
  before.countP fun e => decide (e.state ≠ .blanked) && decide (0 < e.build) && p e.build

/-- Full cops at DOFFING entry (R141). -/
def fullCopsOf (p : InForce) (before : List Spindle) : Nat :=
  copsWhere (fun build => p.target * p.table.fullCop / 1000 ≤ build) before

/-- Partial cops at DOFFING entry (R141). -/
def partialCopsOf (p : InForce) (before : List Spindle) : Nat :=
  copsWhere (fun build => build < p.target * p.table.fullCop / 1000) before

/-- A staged partition comes into force at DOFFING entry when it says so and, as the entry leaves the pool, it fits; any other
stays staged, and what is in force stays (R60, R61). -/
structure PartitionTurn (s t : State) : Prop where
  unstaged : s.pool.staged = none → t.pool.reserves = s.pool.reserves ∧ t.pool.staged = none
  applied : ∀ p, s.pool.staged = some p → p.atDoff = true → overflowSum p.reserves t ≤ 512 - p.reserves.sum →
    t.pool.reserves = p.reserves ∧ t.pool.staged = none
  stays : ∀ p, s.pool.staged = some p → (p.atDoff = false ∨ 512 - p.reserves.sum < overflowSum p.reserves t) →
    t.pool.reserves = s.pool.reserves ∧ t.pool.staged = some p

/-- A staged process table comes into force at DOFFING entry: every position is rescaled and marked afresh, and every bay has
its call test, after which each position EMPTY or OVERRUN is in a request of its bay or its bay is wanting. Without one the
positions stay (R39, R112, R116, R118). -/
structure ProcessTurn (s t : State) : Prop where
  table : t.pcu.inForce = (match s.pcu.staged with | some x => some x.inForce | none => s.pcu.inForce)
    ∧ t.pcu.staged = none
  roving : t.spindles.map Spindle.roving = s.spindles.map fun e =>
    match s.pcu.staged with
    | some x => e.roving.map (rescaled x s)
    | none => e.roving
  calls : ∀ x, s.pcu.staged = some x → SizesHold s → ∀ n e, 1 ≤ n → n ≤ 1728 → (spindle n s).state ≠ .blanked →
    (spindle n s).roving = some e → ((rescaled x s e).mark = .empty ∨ (rescaled x s e).mark = .overrun) →
    (∃ r q, requestOf (sectionOf n) t = some (r, q) ∧ (n ∈ q.positions ∨ q.phase ≠ .waiting))
      ∨ wanting (sectionOf n) t = true

/-- From `s` to `t`, the spindles standing as `before`, DOFFING was entered: its timer and its progress started, every PIECE
record is closed, the cops are counted, the open breaks are closed DOFF and their spindles IDLE, the builds are zeroed, and a
staged process table and a staged partition take their turns. HOLD records stay, and so does a bay request that is not WAITING.
A closure or cop count that its counter's top cuts short sets COUNTER_SATURATED (R23, R37, R39, R61, R116, R138, R140, R141).
That the parking marks are discarded is the model's (log entry 29). -/
structure DoffingEntered (before : List Spindle) (s t : State) : Prop extends ProcessTurn s t, PartitionTurn s t where
  timers : t.dfs.parkTimer = none ∧ t.dfs.doffTimer = some s.dfs.timers.doffTimeout ∧ t.dfs.progress = 0
  marks : t.dfs.stopSeen = none ∧ t.dfs.parked1 = none ∧ t.dfs.parked2 = none
  pieces : NoPieces t
  holds : ∀ r h, recordAt r s = some (.hold h) → recordAt r t = some (.hold h)
  requests : ∀ r q, recordAt r s = some (.bay q) → q.phase ≠ .waiting → recordAt r t = some (.bay q)
  spindles : t.spindles.map Spindle.state = before.map fun e => if e.state.clearedAtDoff then .idle else e.state
  closures : t.pcu.frame.closures.doff = min 65535 (s.pcu.frame.closures.doff + doffClosures before)
    ∧ (65535 < s.pcu.frame.closures.doff + doffClosures before → Saturated s t)
  cops : ∀ p, s.pcu.inForce = some p →
    t.pcu.frame.fullCops = min 65535 (s.pcu.frame.fullCops + fullCopsOf p before)
    ∧ t.pcu.frame.partialCops = min 65535 (s.pcu.frame.partialCops + partialCopsOf p before)
    ∧ (65535 < s.pcu.frame.fullCops + fullCopsOf p before ∨ 65535 < s.pcu.frame.partialCops + partialCopsOf p before →
        Saturated s t)
  builds : ∀ e ∈ t.spindles, e.build = 0 ∧ e.sinceDoff = 0

/-- `c` is a drive report, a PARKED or a carriage's silence that took the part from DOFF_CALLED into DOFFING (R138, R140). -/
def EntersDoffing (c : Instr) (s t : State) : Prop :=
  ((∃ bytes, c = .driveReport bytes) ∨ c = .parked ∨ ∃ k : Carriage, c = .agentSilenceExpiry k.agent)
    ∧ s.dfs.doff = some .called ∧ t.dfs.doff = some .doffing

/-- A record of carriage `c` after `c` is reported ABSENT: taken back QUEUED with skip NO from its window or from VERIFYING,
and moved to the other carriage where that is a PRESENT candidate; unserved records and those of the other carriage stay
(R72). -/
def afterAbsence (c : Carriage) (p : PieceRecord) (s : State) : PieceRecord :=
  let kept := match p.phase with
    | .queued _ _ => p
    | _ => { p with phase := .queued false false }
  let unserved := match p.phase with
    | .queued u _ => u
    | _ => false
  if p.carriage ≠ c ∨ unserved = true then p
  else if (carriage c.other s).candidate p.spindle ∧ present c.other.agent s = true then
    { kept with carriage := c.other, phase := .queued false false }
  else kept

/-- A record of carriage `c` in its window or in VERIFYING is of the spindle at place `i` of the array, which starts at
spindle 1. -/
def worksOn (c : Carriage) (i : Nat) (s : State) : Bool :=
  s.pool.records.any fun j => match j with
    | some (.piece p) => decide (p.carriage = c) && p.spindle - 1 == i && (match p.phase with
        | .queued _ _ => false
        | _ => true)
    | _ => false

/-- The spindles after carriage `c` is reported ABSENT: those it was piecing or had pieced are BROKEN with good count 0
(R72). -/
def afterRecall (c : Carriage) (s : State) : List Spindle :=
  s.spindles.mapIdx fun i e => if worksOn c i s then { e with state := .broken 0 } else e

/-- The indication of a lamp item holds (R207, R129, R133). -/
def indicates (s : State) : Indication → Bool
  | .queued n => n ≤ s.pool.records.countP fun j => match j with
      | some (.piece p) => (match p.phase with
          | .queued _ _ => true
          | _ => false)
      | _ => false
  | .unlisted => s.mfh.live.unlistedPresent
  | .lockedThisShift => s.mfh.lockedThisShift
  | .overrun => s.spindles.any fun e => decide (e.state ≠ .blanked) && e.roving.any fun r => decide (r.mark = .overrun)
  | .urgent => (requestList s).any fun x => x.2.urgent
  | .opened => decide (requestList s ≠ [])
  | .preDoff => decide (s.dfs.doff = some .preDoff)
  | .calledOrDoffing => decide (s.dfs.doff = some .called ∨ s.dfs.doff = some .doffing)
  | .fault => s.dfs.doff.any fun d => decide (d = .fault .park ∨ d = .fault .doffer ∨ d = .fault .timeout)

/-- The items of a lamp, in order (R207). -/
def lampItems (l : Lamp) (s : State) : List LampItem :=
  match l with
  | .brk => s.mfh.lampTable.brk
  | .roving => s.mfh.lampTable.roving
  | .doff => s.mfh.lampTable.doff

/-- A lamp of the COMMISSIONED part shows the pattern of its first item whose indication holds, and OFF where none does
(R207). -/
def LampsShow (s : State) : Prop :=
  s.part = .commissioned → ∀ l : Lamp, (s.mfh.lamps.get l).pattern
    = match (lampItems l s).find? fun i => indicates s i.indication with
      | some i => i.pattern
      | none => .off

/-- A frame placed for agent `a` brings no test of its owner with it: it waits for the line, or it begins as the only one that
the part has and the owner, told of the place that came free, has nothing to offer (R75, R95, R103, R122). -/
def Quiet (a : Agent) (s : State) : Prop :=
  lineFree s = false ∨ (∀ b, s.slc.tx.get b = []) ∧ (match a with
    | .pc1 => nextOffer .pc1 s = none
    | .pc2 => nextOffer .pc2 s = none
    | .ad => True
    | .rt => mayOfferBay s = false ∨ nextRequest s = none)

/-- All seven conditions. -/
def conditions : List Area :=
  [.cond .poolLow, .cond .slcLevel, .cond .driveCapMismatch, .cond .counterSaturated, .cond .unlistedPresent,
   .cond .doffFault, .cond .clockInvalid]

/-- The management frame at the head of the receive queue is executed: command `row` answers a next state in which its
RESPONSE carries `payload`, which has `effect`, and in which nothing but `touched` and the answering moved (R199). -/
def Executes (row : Instr) (f : LineFrame) (rest : List LineFrame) (s : State) (payload : List Byte) (touched : List Area)
    (effect : State → Prop) : Prop :=
  ∃ t, exec row s = .next t ∧ Answered f rest payload t ∧ effect t ∧ Kept (touched ++ answers) s t

end Sys2Proof.Safety
end

