-- ==== Sys2Proof/Certificates/Slice0/Obligations.lean ====
section
/-! DEFINITION. The statements about the part, for the provers. Each docstring names the rules of spec/ it rests on, and
the log entry where it rests on a choice of the model. -/

section

open Sys2Proof Sys2Proof.Machine Sys2Proof.Safety

/-! ## The step, reset and the invariants -/

/-- Taking commands one by one, first in first out, is the model's (log entry 1): the step of a state with `c` at the front
of its queue is `exec c` with the queue's rest, and with no command waiting the part idles (log entry 2). -/
def Obligations.StepTakesTheFrontCommand : Prop :=
  (∀ (c : Instr) (rest : List Instr) (s : State), s.pending = c :: rest → step s = exec c { s with pending := rest })
    ∧ ∀ s : State, s.pending = [] → step s = .next s

/-- No command stops the part: every one answers a next state, and none touches the queue of waiting commands (log
entry 1). -/
def Obligations.EveryCommandGoesOn : Prop :=
  ∀ (c : Instr) (s : State), ∃ t, exec c s = .next t ∧ t.pending = s.pending

/-- Power-on reset sets every block to the values of R1, R4, R5, R7, R26, R49, R51, R63, R66, R67, R77, R92, R93, R106, R108,
R110, R111, R130, R132, R147, R159, R162, R166, R170, R172, R180, R186, R197, R207 and R211, whatever the part held. That the
commands that wait and the count of free values stay is the model's (log entries 9 and 10), as are the build counter held
as 0 (log entry 38), the number 0 of the notice that rises as reset ends (log entry 48), and the line, not listening to a
carrier that stands as reset ends (log entry 54). -/
def Obligations.PowerOnResetSetsEveryBlock : Prop :=
  ∀ (carrier : Bool) (s : State), ∃ t, exec (.powerOnReset carrier) s = .next t
    ∧ t.pending = s.pending ∧ t.freeCount = s.freeCount
    ∧ t.part = .unconfigured
    ∧ t.sections = List.replicate 72 { enabled := false, mode := .none, watch := none }
    ∧ t.spindles = List.replicate 1728
        { inUse := false, clampFitted := false, state := .blanked, rovingAbsent := false, clampClosed := false,
          live := { pulses := 0, breaks := 0, slip := 0 }, prev := { pulses := 0, breaks := 0, slip := 0 }, build := 0,
          sinceDoff := 0, roving := none }
    ∧ t.detection = { breakFloor := 500, slipFloor := 940, confirmCount := 2, healConfirm := 2, rogueLimit := 6,
                      silenceLimit := 8 }
    ∧ t.pcu.latest = { speed := 0, run := .stopped, stopCode := 0 } ∧ t.pcu.inForce = none ∧ t.pcu.staged = none
    ∧ productionOf t.pcu.frame = List.replicate 10 0
    ∧ t.pcu.frame.closures
        = { pieced := 0, hand := 0, doff := 0, blank := 0, lock := 0, restart := 0, decommission := 0 }
    ∧ (t.pcu.frame.openedRun, t.pcu.frame.openedStartup, t.pcu.frame.carriedIn, t.pcu.frame.doffs,
        t.pcu.frame.fullCops, t.pcu.frame.partialCops, t.pcu.frame.baysDone, t.pcu.frame.noticesLost)
        = (0, 0, 0, 0, 0, 0, 0, 0)
    ∧ t.pool.reserves = { piece := 256, hold := 64, bay := 24, notice := 64 } ∧ t.pool.staged = none
    ∧ jobsOf t = List.replicate 512 none
    ∧ (∀ c : Carriage, carriageTable (carriage c t) = (none, 3, 90, 3, false)
        ∧ carriageReport (carriage c t) = (1, .up, .parked) ∧ (carriage c t).nextTag = 0)
    ∧ t.slc.line = (if carrier then .receiving false else .quiet 0) ∧ t.slc.rx = [] ∧ t.slc.pointer = .rt
    ∧ (∀ a : Agent, t.slc.tx.get a = [] ∧ t.slc.presence.get a = none ∧ t.slc.txDrop.get a = 0)
    ∧ t.slc.table = { gapPart := 4, levelThreshold := 14, agentSilence := 10 }
    ∧ (t.slc.rxError, t.slc.rxOverflow, t.slc.clash) = (0, 0, 0)
    ∧ t.rvm.marks = { lowMark := 100, predoffMark := 250, batchCount := 6, retryDelay := 120, bayTimeout := 600 }
    ∧ t.rvm.requests = [] ∧ t.rvm.wanting = List.replicate 72 false ∧ t.rvm.mode = .parked
    ∧ t.dfs.timers = { parkTimeout := 60, doffTimeout := 600, grace := 20 }
    ∧ t.dfs.stops.map (fun a => (a.downtimeClass, a.offers, a.park, a.graceOnRestart))
        = [(0, .continue, false, false), (1, .suspend, true, true), (2, .suspend, false, true), (3, .cancel, true, true)]
          ++ List.replicate 4 (0, .suspend, false, false)
    ∧ t.dfs.doff = none ∧ t.dfs.build = 0 ∧ t.dfs.parkTimer = none ∧ t.dfs.doffTimer = none
    ∧ (t.dfs.stopSeen, t.dfs.parked1, t.dfs.parked2) = (none, none, none)
    ∧ t.dfs.stop = none ∧ t.dfs.grace = none ∧ t.dfs.progress = 0 ∧ t.dfs.doffer = .parked
    ∧ t.sgv.table = { slotLen := 60, minExposure := 100000, rateLimit := 40, hysteresis := 8, entryStep := 5,
                      floorStep := 3 }
    ∧ t.sgv.steps = [14000, 15500, 17000, 18500, 20000, 21500, 23000, 25000]
    ∧ t.sgv.closed = [] ∧ t.sgv.opened = { breaks := 0, exposure := 0 } ∧ t.sgv.governor = .normal
    ∧ t.sgv.slotTimer = none ∧ t.sgv.lastRate = none
    ∧ (t.sgv.supervisorCap, t.sgv.lastSent, t.sgv.sinceSent, t.sgv.mismatch) = (7, 7, 0, 0)
    ∧ (t.scs.hours, t.scs.minutes, t.scs.seconds, t.scs.day, t.scs.sub) = (0, 0, 0, 0, 0) ∧ t.scs.valid = false
    ∧ t.scs.trim = .none ∧ t.scs.shifts = [some 21600, some 50400, some 79200, none] ∧ t.scs.openShift = none
    ∧ t.scs.history = []
    ∧ t.fli.forward = [] ∧ t.fli.pass = [] ∧ t.fli.drive = [] ∧ t.fli.down = none
    ∧ (t.fli.rxError, t.fli.unknownSection, t.fli.forwardDrop, t.fli.passBusy, t.fli.commandDrop) = (0, 0, 0, 0, 0)
    ∧ t.mfh.frameNumber = none ∧ t.mfh.rx = [] ∧ t.mfh.slot = none ∧ t.mfh.tx = none ∧ t.mfh.pointer = .forward
    ∧ (∃ r, t.mfh.notices = [r]
        ∧ recordAt r t = some (.notice { kind := .condition, number := 0, stamp := none, args := [6] }))
    ∧ t.mfh.noticeNumber = 1
    ∧ t.mfh.mask = List.replicate 14 true
    ∧ t.mfh.lampTable =
        { brk := [⟨.unlisted, .blink1⟩, ⟨.queued 24, .steady⟩, ⟨.lockedThisShift, .blink2⟩],
          roving := [⟨.overrun, .blink1⟩, ⟨.urgent, .steady⟩, ⟨.opened, .blink2⟩],
          doff := [⟨.fault, .blink1⟩, ⟨.calledOrDoffing, .steady⟩, ⟨.preDoff, .blink2⟩],
          blink1 := { on := 2, off := 2 }, blink2 := { on := 10, off := 30 } }
    ∧ (∀ c : Cond, t.mfh.live.get c = decide (c = .clockInvalid) ∧ t.mfh.latched.get c = decide (c = .clockInvalid))
    ∧ t.mfh.lockedThisShift = false ∧ (∀ l : Lamp, lampOutput l t = false)
    ∧ (t.mfh.rxError, t.mfh.rxOverflow) = (0, 0)

/-- The state right after reset meets every invariant stated below. -/
def Obligations.ResetMeetsTheInvariants : Prop :=
  QueuesFit State.reset ∧ LatchedCovers State.reset ∧ SizesHold State.reset ∧ RovingFits State.reset
    ∧ CapsLegal State.reset ∧ SubSecondFits State.reset ∧ PoolFits State.reset ∧ DarkUnconfigured State.reset

/-- No queue or list grows past its capacity (R99, R102, R160, R185, R191 to R193, R198). -/
def Obligations.QueuesStayWithinCapacity : Prop :=
  ∀ s t : State, QueuesFit s → step s = .next t → QueuesFit t

/-- A latched flag stays set whenever its live flag is (R206, R201). -/
def Obligations.LatchedFlagsCoverLiveFlags : Prop :=
  ∀ s t : State, LatchedCovers s → step s = .next t → LatchedCovers t

/-- The tables and arrays keep their sizes (00_scope section 5; R1, R4, R50, R110, R117, R147, R166, R180, R205, R207). -/
def Obligations.TablesKeepTheirSizes : Prop :=
  ∀ s t : State, SizesHold s → step s = .next t → SizesHold t

/-- Every creel position's remaining roving stays between 0 and the budget in force (R110, R113, R115, R116). -/
def Obligations.RovingStaysWithinTheBudget : Prop :=
  ∀ s t : State, RovingFits s → step s = .next t → RovingFits t

/-- The governor's step, the supervisor cap and the cap last sent stay steps of their ranges (R162, R164, R165, R167), and
the sub-second count stays in 0 to 255 and a held correction value in −64 to +63 (R172, R176 to R178). -/
def Obligations.CapsAndTrimsStayInRange : Prop :=
  (∀ s t : State, CapsLegal s → step s = .next t → CapsLegal t)
    ∧ ∀ s t : State, SubSecondFits s → step s = .next t → SubSecondFits t

/-- The classes never overflow their reserves by more than the shared portion, in force by grants, reclasses and applied
partitions alone (R51, R52, R54, R60). -/
def Obligations.PoolStaysWithinItsShares : Prop :=
  ∀ s t : State, PoolFits s → step s = .next t → PoolFits t

/-- After every command every lamp of an UNCONFIGURED part is OFF, and each lamp of a COMMISSIONED part shows the pattern of the
first item in its list whose indication holds, and OFF when none holds (R129, R133, R207). That the lamps choose once for each
command is the model's (log entry 8). -/
def Obligations.LampsAreDarkWhenUnconfigured : Prop :=
  ∀ (c : Instr) (s t : State), exec c s = .next t → DarkUnconfigured t ∧ LampsShow t

/-- The part state changes by COMMISSION, DECOMMISSION and power-on reset alone (R208, R209, R211), and a frame number once
adopted is kept until power-on reset (R198). -/
def Obligations.PartStateAndFrameNumberAreKept : Prop :=
  ∀ (c : Instr) (s t : State), exec c s = .next t → (∀ carrier, c ≠ .powerOnReset carrier) →
    (t.part ≠ s.part → c = .commission ∧ t.part = .commissioned ∨ c = .decommission ∧ t.part = .unconfigured)
      ∧ ∀ n, s.mfh.frameNumber = some n → t.mfh.frameNumber = some n

/-- Each table holds what it held until its own TABLE_WRITE or power-on reset. The process table in force changes by
COMMISSION and DOFFING entry alone, which bring the staged one into force, so that none is staged after; the partition in
force by APPLY_PARTITION and, where the staged one says so, DOFFING entry alone, in the same way; and a table is staged by its
own TABLE_WRITE alone. DOFFING is entered from DOFF_CALLED by a drive report, a PARKED or a carriage's silence alone, and
returned to from a fault by DOFF_CLEAR RESUME (R1, R4, R7, R38, R39, R59 to R61, R66, R93, R111, R132, R138, R140, R147, R155,
R162, R166, R180, R205, R207). -/
def Obligations.TablesChangeOnlyByTheirWrites : Prop :=
  ∀ (c : Instr) (s t : State), exec c s = .next t → (∀ carrier, c ≠ .powerOnReset carrier) →
    (c ≠ .sectionTableWrite → Area.sectionTable.same s t)
    ∧ (c ≠ .spindleTableWrite → Area.spindleTable.same s t)
    ∧ (c ≠ .carriageTableWrite → Area.carriageTables.same s t)
    ∧ (c ≠ .detectionTableWrite → t.detection = s.detection)
    ∧ (c ≠ .rovingMarksTableWrite → t.rvm.marks = s.rvm.marks)
    ∧ (c ≠ .doffTimersTableWrite → t.dfs.timers = s.dfs.timers)
    ∧ (c ≠ .stopActionTableWrite → t.dfs.stops = s.dfs.stops)
    ∧ (c ≠ .governorTableWrite → t.sgv.table = s.sgv.table)
    ∧ (c ≠ .speedStepTableWrite → t.sgv.steps = s.sgv.steps)
    ∧ (c ≠ .shiftTableWrite → t.scs.shifts = s.scs.shifts)
    ∧ (c ≠ .serviceLineTableWrite → t.slc.table = s.slc.table)
    ∧ (c ≠ .noticeMaskWrite → t.mfh.mask = s.mfh.mask)
    ∧ (c ≠ .lampTableWrite → t.mfh.lampTable = s.mfh.lampTable)
    ∧ (t.pcu.inForce ≠ s.pcu.inForce → (c = .commission ∨ EntersDoffing c s t)
        ∧ t.pcu.staged = none ∧ ∃ x, s.pcu.staged = some x ∧ t.pcu.inForce = some x.inForce)
    ∧ (t.pcu.staged ≠ s.pcu.staged → c = .processTableWrite ∨ (c = .commission ∨ EntersDoffing c s t)
        ∧ t.pcu.staged = none ∧ ∃ x, s.pcu.staged = some x ∧ t.pcu.inForce = some x.inForce)
    ∧ (t.pool.reserves ≠ s.pool.reserves ∨ t.pool.staged ≠ s.pool.staged →
        c = .partitionTableWrite ∧ t.pool.reserves = s.pool.reserves
        ∨ ∃ p, s.pool.staged = some p ∧ (c = .applyPartition ∨ EntersDoffing c s t ∧ p.atDoff = true)
            ∧ t.pool.reserves = p.reserves ∧ t.pool.staged = none)
    ∧ (t.dfs.doff = some .doffing → s.dfs.doff ≠ some .doffing →
        EntersDoffing c s t ∨ c = .doffClearResume ∧ ∃ cause, s.dfs.doff = some (.fault cause))

/-! ## Frames and notices -/

/-- A frame built with at most 60 payload bytes is read back whole from its bytes, its check matching, whatever follows
its declared end (12.1; test 1 of R97, R187, R198). -/
def Obligations.FramesParseAsBuilt : Prop :=
  ∀ (dest src kind seq : Byte) (payload extra : List Byte), payload.length ≤ 60 →
    parseFrame ((frameOf dest src kind seq payload).bytes ++ extra) = some (frameOf dest src kind seq payload)
      ∧ (frameOf dest src kind seq payload).checks = true

/-- A notice of an enabled kind takes the next number. When the pool has a record for it, the lowest-numbered free one is
filled with it, its number, its time and its arguments, and the record joins the notices on their way behind those already
there; POOL_LOW rises when the grant leaves 8 or fewer free shared records, and its notice may then follow. When the pool
refuses, the notice is dropped, its number is spent and notices lost rises, and where that would carry it past its top
COUNTER_SATURATED is set. A notice of a disabled kind is not raised at all (R37, R50, R55, R56, R203, R204, R205). That the
notice stands before the POOL_LOW notice of its own grant is the model's (log entry 16). -/
def Obligations.RaisedNoticeTakesARecord : Prop :=
  ∀ (k : NoticeKind) (args : List Int) (s : State),
    let t := raise k args s
    (noticeEnabled k s = false → t = s)
    ∧ (noticeEnabled k s = true → canGrant .notice s = true → none ∈ s.pool.records →
        ∃ r, recordAt r s = none ∧ (∀ q, q < r → recordAt q s ≠ none)
          ∧ recordAt r t
            = some (.notice { kind := k, number := s.mfh.noticeNumber, stamp := stampNow s, args := args })
          ∧ (∀ q, recordAt q s ≠ none → recordAt q t = recordAt q s)
          ∧ (∃ more, noticeLine t = noticeLine s ++ r :: more)
          ∧ t.mfh.live.poolLow = (s.mfh.live.poolLow || decide (freeShared t ≤ 8))
          ∧ (s.mfh.live.poolLow = true ∨ 9 < freeShared s →
              noticeLine t = noticeLine s ++ [r] ∧ t.mfh.noticeNumber = (s.mfh.noticeNumber + 1) % 256
              ∧ (∀ q, q ≠ r → recordAt q t = recordAt q s) ∧ t.pcu.frame.noticesLost = s.pcu.frame.noticesLost
              ∧ t.mfh.live = s.mfh.live ∧ t.mfh.latched = s.mfh.latched))
    ∧ (noticeEnabled k s = true → canGrant .notice s = false → s.pcu.frame.noticesLost < 65535 →
        t.pcu.frame.noticesLost = s.pcu.frame.noticesLost + 1
          ∧ t.mfh.noticeNumber = (s.mfh.noticeNumber + 1) % 256
          ∧ t.pool = s.pool ∧ noticeLine t = noticeLine s ∧ Kept [.lost, .noticeNumber] s t)
    ∧ (noticeEnabled k s = true → canGrant .notice s = false → 65535 ≤ s.pcu.frame.noticesLost →
        t.pcu.frame.noticesLost = 65535 ∧ t.pool = s.pool ∧ Saturated s t)
    ∧ Kept reports s t

/-! ## The classifier and the counting unit -/

/-- What a reading does to a spindle that is not at a confirmation, a heal or a verification (R12, R13, R16, R19): the state
it leaves, with no other spindle and nothing else touched. The reading here is low or good; a slow one acts as good and
counts a slip besides (R10, R11). -/
def Obligations.ReadingsMoveSpindles : Prop :=
  ∀ (n : Nat) (s : State), 1 ≤ n → n ≤ s.spindles.length →
    let low := (applyReading n .low s).state
    let good := (applyReading n .good s).state
    let moved := fun (st : SpindleState) (t : State) => (spindle n t).state = st
      ∧ (∀ m, m ≠ n → 1 ≤ m → spindle m t = spindle m s) ∧ Kept [.spindleStates] s t
    (((spindle n s).state = .blanked ∨ (spindle n s).state = .locked) → low = s ∧ good = s)
    ∧ ((spindle n s).state = .idle ∨ (spindle n s).state = .running →
        moved .running good)
    ∧ ((spindle n s).state = .idle → 2 ≤ s.detection.confirmCount →
        moved (.suspect 1 true) low)
    ∧ ((spindle n s).state = .running → 2 ≤ s.detection.confirmCount →
        moved (.suspect 1 false) low)
    ∧ (∀ count fromIdle, (spindle n s).state = .suspect count fromIdle →
        moved .running good
        ∧ (count + 1 < s.detection.confirmCount →
            moved (.suspect (count + 1) fromIdle) low))
    ∧ (∀ count, (spindle n s).state = .broken count →
        moved (.broken 0) low
        ∧ (count + 1 < s.detection.healConfirm →
            moved (.broken (count + 1)) good))
    ∧ (∀ count, (spindle n s).state = .offered count →
        moved (.offered 0) low
        ∧ (count + 1 < s.detection.healConfirm →
            moved (.offered (count + 1)) good))
    ∧ (∀ count, (spindle n s).state = .rovingWait count →
        moved (.rovingWait 0) low
        ∧ (count + 1 < s.detection.healConfirm →
            moved (.rovingWait (count + 1)) good))
    ∧ (∀ count note origin, (spindle n s).state = .unlisted count note origin →
        moved (.unlisted 0 note origin) low
        ∧ (count + 1 < s.detection.healConfirm →
            moved (.unlisted (count + 1) note origin) good))

/-- A slow reading counts a slip on a spindle that takes readings. A heal closes the break HAND and leaves the spindle RUNNING
without a record, its open offer cancelled and, from ROVING_WAIT or with a NO_ROVING note, its position refilled. A
verification closes the break PIECED on a good reading and charges an attempt on a low one, by which the record is QUEUED
again with skip NO, on its own carriage or assigned afresh, and which at max_attempts locks the spindle. A slip or a closure
that its counter's top cuts short sets COUNTER_SATURATED (R11, R17, R18, R37, R53, R69, R70, R79, R87, R89, R115). -/
def Obligations.HealsAndVerificationsEndBreaks : Prop :=
  ∀ (n r : Nat) (s : State), Alone r n s →
    let slow := (applyReading n .slow s).state
    let good := (applyReading n .good s).state
    let low := (applyReading n .low s).state
    let refilled := (spindle n s).roving.map fun _ => { remaining := budget s, mark := .full }
    let byHand := (spindle n good).state = .running
      ∧ good.pcu.frame.closures = { s.pcu.frame.closures with hand := min 65535 (s.pcu.frame.closures.hand + 1) }
      ∧ (65535 ≤ s.pcu.frame.closures.hand → Saturated s good)
    let recordless := fun t : State => (∀ q p, recordAt q t = some (.piece p) → p.spindle ≠ n)
      ∧ ∀ q h, recordAt q t = some (.hold h) → h.spindle ≠ n
    ((spindle n s).state ≠ .blanked → (spindle n s).state ≠ .locked →
      (spindle n slow).live.slip = min 65535 ((spindle n s).live.slip + 1)
        ∧ (65535 ≤ (spindle n s).live.slip → Saturated s slow))
    ∧ (∀ p count, recordAt r s = some (.piece p) → p.spindle = n →
        (spindle n s).state = .broken count ∨ (spindle n s).state = .offered count →
        s.detection.healConfirm ≤ count + 1 →
        byHand ∧ recordless good
          ∧ ∀ tag left, p.phase = .offered tag left ∨ p.phase = .accepted tag left →
              (s.slc.tx.get p.carriage.agent).length < 4 →
              ∃ more, outgoing p.carriage.agent good = outgoing p.carriage.agent s ++ .jobCancel tag :: more)
    ∧ (∀ h count, recordAt r s = some (.hold h) → h.spindle = n → (spindle n s).state = .rovingWait count →
        s.detection.healConfirm ≤ count + 1 → byHand ∧ recordless good ∧ (spindle n good).roving = refilled)
    ∧ (∀ count note origin, (spindle n s).state = .unlisted count note origin → s.detection.healConfirm ≤ count + 1 →
        byHand ∧ jobsOf good = jobsOf s
          ∧ (spindle n good).roving = (if note = true then refilled else (spindle n s).roving)
          ∧ Kept (.spindleStates :: .breakCounts :: .roving :: .cond .unlistedPresent :: reports) s good)
    ∧ (∀ p, recordAt r s = some (.piece p) → p.spindle = n → (spindle n s).state = .verify →
        (spindle n good).state = .running ∧ recordless good
          ∧ good.pcu.frame.closures
            = { s.pcu.frame.closures with pieced := min 65535 (s.pcu.frame.closures.pieced + 1) }
          ∧ (65535 ≤ s.pcu.frame.closures.pieced → Saturated s good)
          ∧ (p.attempts + 1 < (carriage p.carriage s).maxAttempts →
              CameBack (requeued { p with attempts := p.attempts + 1 } s) r low)
          ∧ ((carriage p.carriage s).maxAttempts ≤ p.attempts + 1 → LockedOut n s low))
    ∧ Kept surveys s slow ∧ Kept surveys s good ∧ Kept surveys s low

/-- A confirmed break is counted once, by its origin, in the shift, the spindle's counts and, for RUN_BREAK, the governor's
open slot; a rogue spindle is LOCKED with its break closed LOCK, and any other is left with an open break and no closure: it
takes the lowest-numbered free record, of class HOLD without roving and PIECE with it, the PIECE record (the spindle's only
one, R6 and R65) assigned to its carriage, or is UNLISTED where the pool refuses. A count that its counter's top cuts short
sets COUNTER_SATURATED (R6, R14, R15, R36, R37, R50, R52, R55, R69, R160). -/
def Obligations.ConfirmedBreakIsCounted : Prop :=
  ∀ (n : Nat) (fromIdle : Bool) (s : State), 1 ≤ n → n ≤ s.spindles.length →
    let t := confirmBreak n fromIdle s
    let startup := s.dfs.grace.isSome || fromIdle
    t.pcu.frame.openedRun = (if startup then s.pcu.frame.openedRun else min 65535 (s.pcu.frame.openedRun + 1))
    ∧ t.pcu.frame.openedStartup = (if startup then min 65535 (s.pcu.frame.openedStartup + 1) else s.pcu.frame.openedStartup)
    ∧ t.sgv.opened.breaks = (if startup then s.sgv.opened.breaks else min 65535 (s.sgv.opened.breaks + 1))
    ∧ (spindle n t).sinceDoff = min 255 ((spindle n s).sinceDoff + 1)
    ∧ (spindle n t).live.breaks = min 255 ((spindle n s).live.breaks + 1)
    ∧ (if s.detection.rogueLimit ≠ 0 ∧ s.detection.rogueLimit ≤ min 255 ((spindle n s).sinceDoff + 1) then
        (spindle n t).state = .locked ∧ t.mfh.lockedThisShift = true
          ∧ t.pcu.frame.closures
            = { s.pcu.frame.closures with lock := min 65535 (s.pcu.frame.closures.lock + 1) }
          ∧ jobsOf t = jobsOf s ∧ (65535 ≤ s.pcu.frame.closures.lock → Saturated s t)
      else
        (spindle n t).state.openBreak = true ∧ t.pcu.frame.closures = s.pcu.frame.closures
          ∧ t.mfh.lockedThisShift = s.mfh.lockedThisShift)
    ∧ ((if startup then 65535 ≤ s.pcu.frame.openedStartup
          else 65535 ≤ s.pcu.frame.openedRun ∨ 65535 ≤ s.sgv.opened.breaks)
        ∨ 255 ≤ (spindle n s).sinceDoff ∨ 255 ≤ (spindle n s).live.breaks → Saturated s t)
    ∧ (let origin : Origin := if startup then .startup else .runBreak
      let absent := (spindle n s).rovingAbsent
      (s.detection.rogueLimit = 0 ∨ min 255 ((spindle n s).sinceDoff + 1) < s.detection.rogueLimit) →
      s.mfh.live.counterSaturated = true ∨ ((if startup then s.pcu.frame.openedStartup < 65535
          else s.pcu.frame.openedRun < 65535 ∧ s.sgv.opened.breaks < 65535)
        ∧ (spindle n s).sinceDoff < 255 ∧ (spindle n s).live.breaks < 255) →
      (canGrant (if absent then .hold else .piece) s = false → (spindle n t).state = .unlisted 0 absent origin)
      ∧ ∀ r, canGrant (if absent then .hold else .piece) s = true → r < s.pool.records.length → recordAt r s = none →
          (∀ q, q < r → recordAt q s ≠ none) →
          (absent = true → (spindle n t).state = .rovingWait 0
            ∧ recordAt r t = some (.hold { spindle := n, origin := origin, opened := stampNow s }))
          ∧ (absent = false → (∀ q p, recordAt q s = some (.piece p) → 1 ≤ p.spindle ∧ p.spindle ≠ n) →
            CameBack (reassigned { spindle := n, origin := origin, opened := stampNow s, carriage := .pc1, attempts := 0,
                                   phase := .queued true false } s) r t))
    ∧ Kept surveys s t

/-! ## The frame link -/

/-- A frame of the frame link that fails a test of R187 is discarded: a frame that ends early, fails its check, pairs a kind
with a wrong source, has a wrong length or names a section other than its source's counts one receive error, which at the
counter's top sets COUNTER_SATURATED, and a good one addressed to neither the part nor the supervisor counts nothing (R187,
R196). -/
def Obligations.DiscardedFramesAreCounted : Prop :=
  ∀ (bytes : List Byte) (s : State), ∃ t, exec (.frameLinkFrameDiscarded bytes) s = .next t
    ∧ ((parseFrame bytes = none
          ∨ ∃ f, parseFrame bytes = some f
              ∧ (f.checks = false
                ∨ (f.dest = 0x70 ∨ f.dest = 0xF0)
                    ∧ (frameLinkPair f = false
                      ∨ f.kind = 0x10 ∧ (f.payload.length ≠ 52 ∨ byteAt f.payload 0 ≠ f.src.toNat)
                      ∨ f.kind = 0x11 ∧ f.payload.length ≠ 9))) →
        t.fli.rxError = min 65535 (s.fli.rxError + 1) ∧ (65535 ≤ s.fli.rxError → Saturated s t)
          ∧ t.fli.unknownSection = s.fli.unknownSection
          ∧ t.fli.forwardDrop = s.fli.forwardDrop ∧ t.fli.passBusy = s.fli.passBusy
          ∧ t.fli.commandDrop = s.fli.commandDrop ∧ Kept (.linkErrors :: .lamps :: reports) s t)
    ∧ (∀ f, parseFrame bytes = some f → f.checks = true → f.dest ≠ 0x70 → f.dest ≠ 0xF0 → Kept [.lamps] s t)

/-- A good survey that the classifier does not take: one that reaches the UNCONFIGURED part goes up the mill link whole as a
SURVEY_COPY, and one from a section not enabled is discarded and counted. A count at its counter's top sets COUNTER_SATURATED
(R189, R190, R195, R196). -/
def Obligations.SurveysNotClassified : Prop :=
  ∀ (bytes : List Byte) (f : LineFrame) (s : State), judgeFrameLink bytes = .good f → f.kind = 0x10 →
    (s.part = .unconfigured → ∃ t, exec (.survey bytes) s = .next t
      ∧ Forwarded { kind := 0x4A, seq := BitVec.ofNat 8 (byteAt f.payload 1), payload := f.bytes } s t
      ∧ Kept (.linkErrors :: .lamps :: reports) s t)
    ∧ (s.part = .commissioned → (sectionAt (byteAt f.payload 0) s).enabled = false →
        ∃ t, exec (.survey bytes) s = .next t
          ∧ t.fli.unknownSection = min 65535 (s.fli.unknownSection + 1) ∧ t.fli.rxError = s.fli.rxError
          ∧ (65535 ≤ s.fli.unknownSection → Saturated s t)
          ∧ t.fli.forwardDrop = s.fli.forwardDrop
          ∧ Kept (.linkErrors :: .lamps :: reports) s t)

/-- A survey from an enabled LIVE section that is held: a repeat only clears the section's silence age, and one taken at a
speed that expects fewer than 16 pulses becomes the kept sequence and records the flags of its entries, those with a sensor
fault and those of BLANKED spindles apart; no spindle's state or count moves and, in DIGEST or NONE, nothing is forwarded
(R3, R8, R9, R21, R189). -/
def Obligations.HeldSurveysMoveNoSpindle : Prop :=
  ∀ (bytes : List Byte) (f : LineFrame) (s : State) (w : Watch), judgeFrameLink bytes = .good f → f.kind = 0x10 →
    s.part = .commissioned → 1 ≤ byteAt f.payload 0 → byteAt f.payload 0 ≤ s.sections.length →
    (sectionAt (byteAt f.payload 0) s).enabled = true → (sectionAt (byteAt f.payload 0) s).mode ≠ .raw →
    (sectionAt (byteAt f.payload 0) s).watch = some w → w.silent = false →
    (w.kept = some (byteAt f.payload 1) → ∃ t, exec (.survey bytes) s = .next t
      ∧ (sectionAt (byteAt f.payload 0) t).watch = some { w with age := 0 }
      ∧ (∀ b, b ≠ byteAt f.payload 0 → 1 ≤ b → sectionAt b t = sectionAt b s)
      ∧ Kept [.watches, .lamps] s t)
    ∧ (w.kept ≠ some (byteAt f.payload 1) →
        s.pcu.latest.speed * max 100 (min 2000 (fieldAt f.payload 2 2)) < 16 * 60000 →
        ∃ t, exec (.survey bytes) s = .next t
          ∧ (sectionAt (byteAt f.payload 0) t).watch
              = some { silent := false, age := 0, kept := some (byteAt f.payload 1) }
          ∧ (∀ b, b ≠ byteAt f.payload 0 → 1 ≤ b → sectionAt b t = sectionAt b s)
          ∧ (∀ i, i < 24 →
              let n := 24 * (byteAt f.payload 0 - 1) + 1 + i
              let e := surveyEntry (fieldAt f.payload (4 + 2 * i) 2)
              spindle n t = if e.sensorFault = true ∨ (spindle n s).state = .blanked then spindle n s
                else { spindle n s with rovingAbsent := e.rovingAbsent, clampClosed := e.clampClosed })
          ∧ Kept [.watches, .flags, .lamps] s t)

/-- Surveys that the classifier of a commissioned part takes. Where every reading is plain (it confirms, heals and verifies no
break), the section is dealt with, each spindle is left by the state table, one with an open break with its good count moved,
its flags recorded and its slip counted, and nothing else moves. A low reading that confirms a break is counted and asks for
the break's record, the other spindles of the section being left by their plain readings. In RAW the survey goes up the mill
link whole as a SURVEY_COPY; in DIGEST one that changed a spindle's state, also by a confirmation, a heal or a verification,
sends a SECTION_DIGEST of the states that the classifier's own work left (log entry 17); in NONE nothing is sent. A SILENT
section is LIVE again by its survey and SECTION_BACK is raised. A slip, a count of the break or a forward drop that its
counter's top cuts short sets COUNTER_SATURATED (R3, R8 to R16, R19, R21, R36, R37, R160, R189, R190, R196, R204). That the
survey that ends SILENT gives its sequence to be kept, so that its repeat is none, is the model's (log entry 28). What other
blocks do on one entry is done before the next (log entry 44), and the forwarded frame is placed after all of it (log entry
59); no clause here turns on either. -/
def Obligations.ClassifiedSurveysMoveTheirSpindles : Prop :=
  (∀ (bytes : List Byte) (f : LineFrame) (s : State), Classified bytes f s →
    (∀ i, i < 24 → (entryOf f i).sensorFault = false →
      plain s.detection.confirmCount s.detection.healConfirm (readsLow f i s) (spindle (spindleOf f i) s).state) →
    ∃ t, exec (.survey bytes) s = .next t ∧ Met f s t
      ∧ (∀ i, i < 24 → spindle (spindleOf f i) t = afterEntry f i s)
      ∧ (∀ n, 1 ≤ n → (∀ i, i < 24 → n ≠ spindleOf f i) → spindle n t = spindle n s)
      ∧ ((∃ i, i < 24 ∧ (entryOf f i).sensorFault = false ∧ (spindle (spindleOf f i) s).state ≠ .blanked
          ∧ (spindle (spindleOf f i) s).state ≠ .locked ∧ readsSlow f i s = true
          ∧ 65535 ≤ (spindle (spindleOf f i) s).live.slip) → Saturated s t)
      ∧ ((sectionAt (byteAt f.payload 0) s).mode = .digest →
          ((∃ i, i < 24 ∧ (afterEntry f i s).state.code ≠ (spindle (spindleOf f i) s).state.code) → forwardSteady s →
            Forwarded { kind := 0x4B, seq := BitVec.ofNat 8 (byteAt f.payload 1),
                        payload := BitVec.ofNat 8 (byteAt f.payload 0)
                          :: (List.range 24).map fun i => BitVec.ofNat 8 (spindle (spindleOf f i) t).state.code } s t)
          ∧ ((∀ i, i < 24 → (afterEntry f i s).state.code = (spindle (spindleOf f i) s).state.code) →
            upward t = upward s ∧ t.fli.forwardDrop = s.fli.forwardDrop))
      ∧ ((sectionAt (byteAt f.payload 0) s).mode ≠ .raw →
          (∀ i, i < 24 → (entryOf f i).sensorFault = true ∨ readsSlow f i s = false
            ∧ afterPlain (readsLow f i s) (spindle (spindleOf f i) s).state = (spindle (spindleOf f i) s).state) →
          Kept [.watches, .flags, .lamps] s t)
      ∧ Kept (.watches :: .spindleStates :: .flags :: .liveCounts :: .linkErrors :: .lamps :: reports) s t)
  ∧ (∀ (bytes : List Byte) (f : LineFrame) (s : State) (k : Nat), Classified bytes f s → k < 24 →
    spindleOf f k ≤ s.spindles.length → (entryOf f k).sensorFault = false → readsLow f k s = true →
    confirmed s.detection.confirmCount (spindle (spindleOf f k) s).state →
    (∀ i, i < 24 → i ≠ k → (entryOf f i).sensorFault = false →
      plain s.detection.confirmCount s.detection.healConfirm (readsLow f i s) (spindle (spindleOf f i) s).state) →
    (∀ q p, recordAt q s = some (.piece p) → 1 ≤ p.spindle ∧ ∀ i, i < 24 → p.spindle ≠ spindleOf f i) →
    ∃ t, exec (.survey bytes) s = .next t ∧ Met f s t
      ∧ Confirmed (spindleOf f k) (s.dfs.grace.isSome || markedIdle (spindle (spindleOf f k) s).state)
          (entryOf f k).rovingAbsent s t
      ∧ (∀ i, i < 24 → i ≠ k → spindle (spindleOf f i) t = afterEntry f i s)
      ∧ Kept (.linkErrors :: .lamps :: surveys) s t)
  ∧ ∀ (bytes : List Byte) (f : LineFrame) (s : State), Surveyed bytes f s →
    ∃ t, exec (.survey bytes) s = .next t
      ∧ ((sectionAt (byteAt f.payload 0) s).mode = .raw → forwardSteady s →
          Forwarded { kind := 0x4A, seq := BitVec.ofNat 8 (byteAt f.payload 1), payload := f.bytes } s t)
      ∧ ((sectionAt (byteAt f.payload 0) s).mode = .none →
          upward t = upward s ∧ t.fli.forwardDrop = s.fli.forwardDrop)
      ∧ ((sectionAt (byteAt f.payload 0) s).mode = .digest → IsRead f s →
          let before := fun i => (spindle (spindleOf f i) (beforeEntry f i s)).state
          ∃ codes : List Nat, codes.length = 24 ∧ (∀ i, i < 24 → LeavesCode f i s (beforeEntry f i s) (codes.getD i 0))
            ∧ ((∃ i, i < 24 ∧ codes.getD i 0 ≠ (before i).code) → forwardSteady s →
                Forwarded { kind := 0x4B, seq := BitVec.ofNat 8 (byteAt f.payload 1)
                            payload := BitVec.ofNat 8 (byteAt f.payload 0) :: codes.map (BitVec.ofNat 8) } s t)
            ∧ ((∀ i, i < 24 → codes.getD i 0 = (before i).code ∧ before i ≠ .verify) →
                upward t = upward s ∧ t.fli.forwardDrop = s.fli.forwardDrop))
      ∧ (∀ w, (sectionAt (byteAt f.payload 0) s).watch = some w → w.silent = true →
          Met f s t
          ∧ (noticeEnabled .sectionBack s = true → canGrant .notice s = true → none ∈ s.pool.records →
              Raised .sectionBack [(byteAt f.payload 0 : Int)] s t))
      ∧ Kept (.linkErrors :: .lamps :: surveys) s t

/-- A drive report reaches the commissioned part, and the UNCONFIGURED part discards it. It becomes the latest report, each
section's silence age rises and the sections at the limit fall SILENT, and it is credited by the states at its arrival: a
RUNNING or RAMPING report to the running, producing, waste, available and unmonitored counters, the pulses and the build of
every producing spindle in a LIVE section, the build counter and the open slot's exposure, and a STOPPED one to the downtime
of its class alone. A running report also draws every consuming position's roving and marks it afresh, and the governor
compares the drive's cap with the effective one and sends it again at the fourth differing report (R2, R27 to R32, R34, R112,
R113, R131, R160, R168, R188). The stop in force takes effect, changes and ends, parking and releasing the carriages and
arming the grace, and a CANCEL stop withdraws every open offer; the grace counts down; the threshold test calls the doff or
enters PRE_DOFF, with the call test of every bay; and a stopped report that completes the wait of DOFF_CALLED enters DOFFING,
where staged tables take their turns. Offers are made where the permission is given again, or where PARK_CALL or RELEASE
begins on a free line and the permission stands (R103). A count that its counter's top cuts short sets COUNTER_SATURATED (R23,
R37, R39, R44, R61, R70, R76, R88, R112, R116, R118, R134 to R136, R138, R140, R141, R145, R148 to R151). These are the
model's: the order of the stop's PARK_CALL and RELEASE, the JOB_CANCEL frames, the call's PARK_CALL and the JOB_OFFER frames
(log entry 51); the rising record number of a carriage's JOB_CANCEL frames (19); that the permission is compared before and
after the whole report (15), and the dispatcher told after it of a frame that began (58); that a stop which came in RESTARTING
and outlasted it arms the grace (57); that the parking marks end at DOFFING entry (29); and the order of the blocks (14). -/
def Obligations.DriveReportIsCredited : Prop :=
  ∀ (bytes : List Byte) (f : LineFrame) (s : State), judgeFrameLink bytes = .good f → f.kind = 0x11 →
    (s.part = .unconfigured → ∃ t, exec (.driveReport bytes) s = .next t ∧ Kept [.lamps] s t)
    ∧ (s.part = .commissioned →
        let pulses := fieldAt f.payload 0 2
        let ms := min 2000 (fieldAt f.payload 4 2)
        let run : RunState :=
          if byteAt f.payload 6 = 0 then .running else if byteAt f.payload 6 = 1 then .ramping else .stopped
        let code := min 7 (byteAt f.payload 7)
        let earns := fun n => (spindle n s).state.producing && (sectionAt (sectionOf n) s).isLive
        ∃ t, exec (.driveReport bytes) s = .next t
          ∧ t.pcu.latest = { speed := min 30000 (fieldAt f.payload 2 2), run := run, stopCode := code }
          ∧ (∀ b w, (sectionAt b s).watch = some w → (sectionAt b t).watch = some
              (if w.silent = false ∧ s.detection.silenceLimit ≤ min 255 (w.age + 1) then
                { silent := true, age := min 255 (w.age + 1), kept := none }
              else { w with age := min 255 (w.age + 1) }))
          ∧ (run ≠ .stopped →
              t.pcu.frame.running = min 4294967295 (s.pcu.frame.running + pulses)
              ∧ t.pcu.frame.producing = min 281474976710655 (s.pcu.frame.producing + pulses * producingCount s)
              ∧ t.pcu.frame.waste = min 281474976710655 (s.pcu.frame.waste + pulses * wasteCount s)
              ∧ t.pcu.frame.available = min 281474976710655 (s.pcu.frame.available + ms * availableCount s)
              ∧ t.pcu.frame.producingMs = min 281474976710655 (s.pcu.frame.producingMs + ms * producingCount s)
              ∧ t.pcu.frame.unmonitored = min 281474976710655 (s.pcu.frame.unmonitored + ms * unmonitoredCount s)
              ∧ t.pcu.frame.downtime = s.pcu.frame.downtime
              ∧ (∀ n, 1 ≤ n → n ≤ s.spindles.length → (spindle n t).live
                  = if earns n then { (spindle n s).live with pulses := min 4294967295 ((spindle n s).live.pulses + pulses) }
                    else (spindle n s).live)
              ∧ (∀ n, 1 ≤ n → n ≤ s.spindles.length → (spindle n t).build
                  = if earns n then min 4294967295 ((spindle n s).build + pulses) else (spindle n s).build)
              ∧ t.dfs.build = min 4294967295 (s.dfs.build + pulses)
              ∧ t.sgv.opened.exposure = min 281474976710655 (s.sgv.opened.exposure + ms * producingCount s))
          ∧ t.sgv.opened.breaks = s.sgv.opened.breaks
          ∧ (run = .stopped →
              t.pcu.frame.downtime.get (stopAction code s).downtimeClass
                = min 4294967295 (s.pcu.frame.downtime.get (stopAction code s).downtimeClass + ms)
              ∧ (∀ i, min 3 i ≠ min 3 (stopAction code s).downtimeClass →
                  t.pcu.frame.downtime.get i = s.pcu.frame.downtime.get i)
              ∧ t.pcu.frame.running = s.pcu.frame.running ∧ t.pcu.frame.producing = s.pcu.frame.producing
              ∧ t.pcu.frame.waste = s.pcu.frame.waste ∧ t.pcu.frame.available = s.pcu.frame.available
              ∧ t.pcu.frame.producingMs = s.pcu.frame.producingMs ∧ t.pcu.frame.unmonitored = s.pcu.frame.unmonitored
              ∧ (reportCompletes run s = false → t.spindles.map Spindle.build = s.spindles.map Spindle.build)
              ∧ t.spindles.map Spindle.live = s.spindles.map Spindle.live ∧ t.dfs.build = s.dfs.build
              ∧ t.sgv.opened = s.sgv.opened)
          ∧ (reportCompletes run s = false → ∀ n e, (spindle n s).roving = some e →
              let draws := run ≠ .stopped ∧ (spindle n s).state ≠ .blanked ∧ (spindle n s).state.isRovingWait = false
                ∧ (spindle n s).clampClosed = false
                ∧ ((spindle n s).state ≠ .locked ∨ (spindle n s).clampFitted = false)
              let left := if draws then e.remaining - pulses else e.remaining
              (spindle n t).roving = some
                { remaining := left
                  mark := if run = .stopped ∨ e.mark = .empty then e.mark else if left = 0 then .overrun
                    else if left * 1000 ≤ budget s * s.rvm.marks.lowMark then .low else .full })
          ∧ (byteAt f.payload 8 = effectiveCap s →
              t.sgv.mismatch = 0 ∧ t.sgv.sinceSent = min 255 (s.sgv.sinceSent + 1)
                ∧ t.mfh.live.driveCapMismatch = false)
          ∧ (byteAt f.payload 8 ≠ effectiveCap s →
              (11 ≤ s.sgv.mismatch → t.mfh.live.driveCapMismatch = true)
              ∧ (s.sgv.sinceSent < 3 → t.sgv.mismatch = min 255 (s.sgv.mismatch + 1)
                  ∧ t.sgv.sinceSent = s.sgv.sinceSent + 1 ∧ t.sgv.lastSent = s.sgv.lastSent)
              ∧ (3 ≤ s.sgv.sinceSent → t.sgv.sinceSent = 0 ∧ t.sgv.lastSent = effectiveCap s
                  ∧ t.sgv.mismatch = if effectiveCap s = s.sgv.lastSent then min 255 (s.sgv.mismatch + 1) else 0))
          ∧ (run ≠ .stopped → 4294967295 < s.pcu.frame.running + pulses
                ∨ 281474976710655 < s.pcu.frame.producing + pulses * producingCount s
                ∨ 281474976710655 < s.pcu.frame.waste + pulses * wasteCount s
                ∨ 281474976710655 < s.pcu.frame.available + ms * availableCount s
                ∨ 281474976710655 < s.pcu.frame.producingMs + ms * producingCount s
                ∨ 281474976710655 < s.pcu.frame.unmonitored + ms * unmonitoredCount s
                ∨ 4294967295 < s.dfs.build + pulses ∨ 281474976710655 < s.sgv.opened.exposure + ms * producingCount s
                ∨ (∃ n, 1 ≤ n ∧ n ≤ s.spindles.length ∧ earns n = true ∧ (4294967295 < (spindle n s).live.pulses + pulses
                    ∨ 4294967295 < (spindle n s).build + pulses)) → Saturated s t)
          ∧ (run = .stopped →
              4294967295 < s.pcu.frame.downtime.get (stopAction code s).downtimeClass + ms → Saturated s t)
          ∧ (let built := if run = .stopped then s.dfs.build else min 4294967295 (s.dfs.build + pulses)
            let calls := reportCalls run ms built s
            let completes := reportCompletes run s
            let cancels := run = .stopped ∧ (stopAction code s).offers = .cancel
            let allowed := permitted s = false ∧ permitted t = true
            let caps := if byteAt f.payload 8 ≠ effectiveCap s ∧ 3 ≤ s.sgv.sinceSent then
                [DriveCmd.speedCap (effectiveCap s) (stepSpeed (effectiveCap s) s)] else []
            t.dfs.grace = graceAfter run ms s
            ∧ t.dfs.stop = (if calls then (stopAfter run code s).map (fun x => { x with doffOwned := true, parkMark := false })
                else stopAfter run code s)
            ∧ t.dfs.doff = (if completes then some .doffing else if calls then some .called
                else if reportWarns run ms built s then some .preDoff else doffAtTest run ms s)
            ∧ (calls = true → t.dfs.stopSeen = some false ∧ t.dfs.parkTimer = some s.dfs.timers.parkTimeout
                ∧ ∀ c : Carriage, parkMark c t = if present c.agent s then some false else none)
            ∧ (completes = true → DoffingEntered (afterWithdrawal (decide cancels) s) s t)
            ∧ (calls = false → completes = false →
                t.dfs.stopSeen = (if s.dfs.doff = some .called then some (decide (run = .stopped)) else s.dfs.stopSeen)
                ∧ t.dfs.parked1 = s.dfs.parked1 ∧ t.dfs.parked2 = s.dfs.parked2 ∧ t.dfs.parkTimer = s.dfs.parkTimer
                ∧ t.dfs.doffTimer = s.dfs.doffTimer ∧ t.dfs.progress = s.dfs.progress)
            ∧ (s.fli.drive.length < 3 → driveLine t = driveLine s ++ ((if calls then [.doffStop] else []) ++ caps))
            ∧ ((s.slc.tx.get .ad).length < 4 →
                outgoing .ad t = outgoing .ad s ++ if completes then [.doffStart] else [])
            ∧ (∀ c : Carriage, s.slc.tx.get c.agent = [] → (openOffers c s).length ≤ 2 →
                ∃ offered, (∀ m ∈ offered, isOffer m = true)
                  ∧ (¬ allowed → lineFree s = false ∨ permitted t = false ∨ nextOffer c s = none → offered = [])
                  ∧ (allowed → MayOffer c s → offered ≠ [])
                  ∧ outgoing c.agent t = outgoing c.agent s
                      ++ ((if present c.agent s then stopFrames run code s else [])
                      ++ (if cancels ∨ completes = true then openOffers c s else [])
                      ++ (if calls && present c.agent s then [.parkCall] else []) ++ offered))
            ∧ (∀ r p, recordAt r s = some (.piece p) → completes = false →
                (cancels → p.phase.inWindow = true → recordAt r t = some (.piece (requeued p s))
                    ∧ (1 ≤ p.spindle → p.spindle ≤ s.spindles.length → (spindle p.spindle t).state = .broken 0))
                ∧ (¬ cancels ∨ p.phase.inWindow = false → Stands p r t))
            ∧ (reportWarns run ms built s = true → SizesHold s → ∀ n e, 1 ≤ n → n ≤ 1728 → (spindle n s).state ≠ .blanked →
                (spindle n s).roving = some e →
                leftAfter run pulses n e s * 1000 ≤ budget s * s.rvm.marks.predoffMark →
                (∃ r q, requestOf (sectionOf n) t = some (r, q) ∧ (n ∈ q.positions ∨ q.phase ≠ .waiting))
                  ∨ wanting (sectionOf n) t = true ∧ (canGrant .bay t = false ∨ none ∉ t.pool.records))
            ∧ (completes = false →
                Kept (.lamps :: .latest :: .production :: .liveCounts :: .builds :: .watches :: .build :: .grace :: .openSlot ::
                  .capSent :: .cond .driveCapMismatch :: .roving :: .requests :: .wanting :: (doffCalls ++ offers)) s t))
          ∧ Kept (.lamps :: driveReports) s t)

/-- The drive report on which the grace runs out, no stop being in force: the grace ends, and a part in RESTARTING short of
its pre-doff level is BUILDING again (R134, R145, R146). That the row is the taking of that report is the model's (log
entry 6). -/
def Obligations.GraceEndsOnItsReport : Prop :=
  ∀ (bytes : List Byte) (f : LineFrame) (s : State) (left : Nat), judgeFrameLink bytes = .good f → f.kind = 0x11 →
    s.part = .commissioned → s.dfs.stop = none → s.dfs.grace = some left → byteAt f.payload 6 ≤ 1 →
    left ≤ min 2000 (fieldAt f.payload 4 2) →
    ∃ t, exec (.graceEnd bytes) s = .next t ∧ t.dfs.grace = none
      ∧ t.pcu.latest.speed = min 30000 (fieldAt f.payload 2 2)
      ∧ (s.dfs.doff = some .restarting →
          (∀ p, s.pcu.inForce = some p → min 4294967295 (s.dfs.build + fieldAt f.payload 0 2) < p.target - p.warn) →
          t.dfs.doff = some .building)
      ∧ Kept (.lamps :: driveReports) s t

/-- A good sensor reply goes up the mill link whole when its payload is of 53 bytes or fewer, and is dropped and counted when
it is longer. A drop at the counter's top sets COUNTER_SATURATED (R191, R196). -/
def Obligations.SensorRepliesAreForwarded : Prop :=
  ∀ (bytes : List Byte) (f : LineFrame) (s : State), judgeFrameLink bytes = .good f → f.kind = 0x12 →
    ∃ t, exec (.sensorReply bytes) s = .next t
      ∧ (f.payload.length ≤ 53 → Forwarded { kind := 0x12, seq := f.seq, payload := f.bytes } s t)
      ∧ (53 < f.payload.length →
          upward t = upward s ∧ t.fli.forwardDrop = min 65535 (s.fli.forwardDrop + 1)
            ∧ (65535 ≤ s.fli.forwardDrop → Saturated s t))
      ∧ Kept (.linkErrors :: .lamps :: reports) s t

/-- When a frame down the frame link ends, the head of the drive-command queue begins, else the head of the pass-through
queue, else nothing (R194). -/
def Obligations.DriveCommandsGoDownFirst : Prop :=
  ∀ (s : State) (x : DownFrame), s.fli.down = some x → ∃ t, exec .downLinkFrameEnd s = .next t
    ∧ (∀ c rest, s.fli.drive = c :: rest →
        t.fli.down = some (.command c) ∧ t.fli.drive = rest ∧ t.fli.pass = s.fli.pass)
    ∧ (∀ p rest, s.fli.drive = [] → s.fli.pass = p :: rest →
        t.fli.down = some (.inner p) ∧ t.fli.drive = [] ∧ t.fli.pass = rest)
    ∧ (s.fli.drive = [] → s.fli.pass = [] → t.fli.down = none ∧ t.fli.drive = [] ∧ t.fli.pass = [])
    ∧ Kept [.down, .drive, .pass, .lamps] s t

/-! ## The service line -/

/-- A carrier that rises on the quiet line is received; one that rises while the part transmits is a clash, counted once for
the frame, which at the counter's top sets COUNTER_SATURATED; at the end of the part's frame the line is QUIET, or RECEIVING
with nothing listened to while another station's carrier stands (R94, R96, R106). R94 names no rise of a carrier that already
stands, while the part receives: that such a command changes nothing is the model's (log entry 1). -/
def Obligations.CarrierAndFrameEndMoveTheLine : Prop :=
  ∀ s : State,
    (∀ ms, s.slc.line = .quiet ms → ∃ t, exec .carrierDetectRise s = .next t
      ∧ t.slc.line = .receiving true ∧ Kept [.line, .lamps] s t)
    ∧ (∀ listening, s.slc.line = .receiving listening → ∃ t, exec .carrierDetectRise s = .next t ∧ Kept [.lamps] s t)
    ∧ (∀ a f clash carrier, s.slc.line = .transmitting a f clash carrier →
      (∃ t, exec .carrierDetectRise s = .next t ∧ t.slc.line = .transmitting a f true true
        ∧ t.slc.clash = (if clash then s.slc.clash else min 65535 (s.slc.clash + 1))
        ∧ (clash = false → 65535 ≤ s.slc.clash → Saturated s t)
        ∧ t.slc.rxError = s.slc.rxError ∧ t.slc.rxOverflow = s.slc.rxOverflow
        ∧ Kept (.line :: .serviceErrors :: .lamps :: reports) s t)
      ∧ ∃ t, exec .serviceFrameEnd s = .next t
        ∧ t.slc.line = (if carrier then .receiving false else .quiet 0) ∧ Kept [.line, .lamps] s t)

/-- What a carrier brought is judged as it falls, unless the part was not listening: a frame that fails the tests is discarded
and counted, one for another station is let pass, and a valid one restarts its agent's silence timer and joins the receive
queue, or is counted as lost when the queue holds 20; a count at its counter's top sets COUNTER_SATURATED (R94, R96 to R99,
R101, R104, R106). A valid frame of an ABSENT agent makes it PRESENT and raises AGENT_BACK. In the COMMISSIONED part a
carriage that comes back has its offer test, and then PARK_CALL while the hold is YES and RELEASE while it is NO; in
DOFF_CALLED it joins the wait with mark NO. The transport that comes back is offered a bay request, the oldest WAITING urgent
one or else the oldest WAITING (R76, R105, R122, R138, R153). That a frame opens at the first 0x7E after whatever was heard
before it is the model's (log entry 27), and so are that the part does not listen to a carrier that stood as reset ended (log
entry 54), and that a frame is judged as the carrier falls also where the end it declares came sooner (R97 against R94; log
entry 56). -/
def Obligations.CarrierFallJudgesWhatWasHeard : Prop :=
  ∀ (heard bytes : List Byte) (s : State),
    (s.slc.line = .receiving false → ∃ t, exec (.carrierDetectFall heard) s = .next t
      ∧ t.slc.line = .quiet 0 ∧ Kept [.line, .lamps] s t)
    ∧ (∀ a f clash carrier, s.slc.line = .transmitting a f clash carrier →
      ∃ t, exec (.carrierDetectFall heard) s = .next t
        ∧ t.slc.line = .transmitting a f clash false ∧ Kept [.line, .lamps] s t)
    ∧ (s.slc.line = .receiving true →
      ((0x7E ∉ heard ∧ heard ≠ []) ∨ openedFrame heard = some bytes ∧ judgeService bytes = .error →
        ∃ t, exec (.carrierDetectFall heard) s = .next t ∧ t.slc.line = .quiet 0
          ∧ t.slc.rxError = min 65535 (s.slc.rxError + 1) ∧ t.slc.rxOverflow = s.slc.rxOverflow
          ∧ (65535 ≤ s.slc.rxError → Saturated s t)
          ∧ t.slc.clash = s.slc.clash ∧ Kept (.line :: .serviceErrors :: .lamps :: reports) s t)
      ∧ (openedFrame heard = some bytes → judgeService bytes = .ignored →
        ∃ t, exec (.carrierDetectFall heard) s = .next t ∧ t.slc.line = .quiet 0 ∧ Kept [.line, .lamps] s t)
      ∧ ∀ f a, openedFrame heard = some bytes → judgeService bytes = .good f → agentAt f.src = some a →
        ∃ t, exec (.carrierDetectFall heard) s = .next t
          ∧ t.slc.presence.get a = some s.slc.table.agentSilence
          ∧ (∀ b, b ≠ a → t.slc.presence.get b = s.slc.presence.get b)
          ∧ (s.slc.rx.length < 20 → t.slc.rx = s.slc.rx ++ [{ agent := a, msg := agentMsgOf f, seq := f.seq }]
              ∧ t.slc.rxOverflow = s.slc.rxOverflow
              ∧ t.mfh.live.slcLevel = decide (s.slc.table.levelThreshold < s.slc.rx.length + 1))
          ∧ (20 ≤ s.slc.rx.length → t.slc.rx = s.slc.rx ∧ t.slc.rxOverflow = min 65535 (s.slc.rxOverflow + 1)
              ∧ (65535 ≤ s.slc.rxOverflow → Saturated s t))
          ∧ t.slc.rxError = s.slc.rxError ∧ t.slc.clash = s.slc.clash
          ∧ (present a s = true ∨ a = .ad ∨ s.part = .unconfigured → t.slc.line = .quiet 0
              ∧ Kept (.line :: .presence :: .serviceRx :: .serviceErrors :: .cond .slcLevel :: .lamps :: reports) s t)
          ∧ (present a s = false → noticeEnabled .agentBack s = true → canGrant .notice s = true → none ∈ s.pool.records →
              Raised .agentBack [((agentAddr a).toNat : Int)] s t)
          ∧ (∀ c : Carriage, a = c.agent → present a s = false → s.part = .commissioned →
              let hold := if carriagesHeld s then SvcMsg.parkCall else SvcMsg.release
              (permitted s = false → Placed a hold s t)
              ∧ ((s.slc.tx.get a).length < 2 →
                  ∃ offered, (∀ m ∈ offered, isOffer m = true) ∧ outgoing a t = outgoing a s ++ (offered ++ [hold]))
              ∧ t.dfs.doff = s.dfs.doff ∧ t.dfs.stopSeen = s.dfs.stopSeen ∧ parkMark c.other t = parkMark c.other s
              ∧ parkMark c t = if s.dfs.doff = some .called then some false else parkMark c s)
          ∧ (a = .rt → present a s = false → s.part = .commissioned →
              let listed := requestList s
              let urgent := listed.find? fun x => decide (x.2.phase = .waiting) && x.2.urgent
              let oldest := listed.find? fun x => decide (x.2.phase = .waiting)
              (s.rvm.mode ≠ .working ∨ listed.any (fun x => x.2.phase.inService) = true ∨ 4 ≤ (s.slc.tx.get .rt).length
                  ∨ oldest = none → jobsOf t = jobsOf s ∧ outgoing .rt t = outgoing .rt s)
              ∧ ∀ r q, s.rvm.mode = .working → listed.any (fun x => x.2.phase.inService) = false →
                  (s.slc.tx.get .rt).length < 4 → (urgent.or oldest) = some (r, q) →
                  recordAt r t = some (.bay { q with phase := .offered 5 })
                  ∧ Placed .rt (.bayOffer q.bay q.urgent s.pcu.latest.run (q.positions.map bayOffset)) s t)
          ∧ Kept (.line :: .presence :: .serviceRx :: .serviceErrors :: .cond .slcLevel :: .lamps :: doffEntries) s t)

/-- When the quiet time reaches gap_part, the frame at the head of the first source queue, in round robin after the
pointer, that holds one begins; its owner may at once place further frames behind the rest of that queue. Below gap_part,
or with nothing to send, only the quiet time moves (R95, R103). That the row carries the quiet time reached is the model's
(log entry 7). -/
def Obligations.GapLetsAFrameBegin : Prop :=
  ∀ (quietMs ms : Nat) (s : State), s.slc.line = .quiet ms →
    (max ms quietMs < s.slc.table.gapPart ∨ (∀ a, s.slc.tx.get a = []) →
      ∃ t, exec (.gapPartElapsed quietMs) s = .next t ∧ t.slc.line = .quiet (max ms quietMs) ∧ Kept [.line, .lamps] s t)
    ∧ (∀ a f rest, s.slc.table.gapPart ≤ max ms quietMs → s.slc.tx.get a = f :: rest →
      (∀ b ∈ (sourcesAfter s.slc.pointer).takeWhile (fun x => decide (x ≠ a)), s.slc.tx.get b = []) →
      ∃ t, exec (.gapPartElapsed quietMs) s = .next t
        ∧ t.slc.line = .transmitting a f false false ∧ t.slc.pointer = a
        ∧ (∃ more, t.slc.tx.get a = rest ++ more) ∧ (∀ b, b ≠ a → t.slc.tx.get b = s.slc.tx.get b)
        ∧ (s.part = .unconfigured ∨ a = .ad →
            t.slc.tx.get a = rest ∧ Kept [.line, .serviceTx, .sourcePointer, .lamps] s t)
        ∧ Kept (.lamps :: (offers ++ callings)) s t)

/-- An agent whose silence timer stands at 0 becomes ABSENT and AGENT_ABSENT is raised; the autodoffer's absence reaches
nothing else, a carriage's takes back the work it held, and the transport's returns its request to WAITING. A carriage's
records in its window or in VERIFYING become QUEUED and their spindles BROKEN, no frame going to it, and its QUEUED records
move to the other carriage where that is a PRESENT candidate, which may then offer them. In DOFF_CALLED the carriage drops out
of the wait, and DOFFING is entered when the stop has been seen and the other carriage has parked or is ABSENT (R23, R39, R72,
R104, R105, R127, R138, R140), in which a staged process table and a staged partition take their turns (R61, R112, R116). That
the row acts when the timer stands at 0 is the model's (log entry 5), and so are the rising record number of the JOB_CANCEL
frames (log entry 19) and the end of the parking marks (log entry 29) at DOFFING entry. -/
def Obligations.SilentAgentIsAbsent : Prop :=
  ∀ (a : Agent) (s : State),
    (s.slc.presence.get a ≠ some 0 → ∃ t, exec (.agentSilenceExpiry a) s = .next t ∧ Kept [.lamps] s t)
    ∧ (s.slc.presence.get a = some 0 → ∃ t, exec (.agentSilenceExpiry a) s = .next t
      ∧ t.slc.presence.get a = none ∧ (∀ b, b ≠ a → t.slc.presence.get b = s.slc.presence.get b)
      ∧ (noticeEnabled .agentAbsent s = true → canGrant .notice s = true → none ∈ s.pool.records →
          Raised .agentAbsent [((agentAddr a).toNat : Int)] s t)
      ∧ (a = .ad ∨ s.part = .unconfigured → Kept (.presence :: .lamps :: reports) s t)
      ∧ (∀ c : Carriage, a = c.agent → s.part = .commissioned → s.dfs.doff ≠ some .called →
          (∀ q p, recordAt q t = some (.piece p) → p.carriage = c → ∃ unserved skip, p.phase = .queued unserved skip)
          ∧ Kept (.presence :: .lamps :: offers) s t)
      ∧ (∀ c : Carriage, a = c.agent → s.part = .commissioned →
          let completes := s.dfs.doff = some .called ∧ s.dfs.stopSeen = some true
            ∧ (present c.other.agent s = true → parkMark c.other s = some true)
          outgoing c.agent t = outgoing c.agent s
          ∧ (¬ completes →
              t.dfs.doff = s.dfs.doff ∧ t.dfs.stopSeen = s.dfs.stopSeen ∧ parkMark c.other t = parkMark c.other s
              ∧ parkMark c t = (if s.dfs.doff = some .called then none else parkMark c s)
              ∧ (∀ r p, recordAt r s = some (.piece p) → Stands (afterAbsence c p s) r t)
              ∧ (∀ r p, recordAt r s = some (.piece p) → p.carriage = c → (∀ u k, p.phase ≠ .queued u k) →
                  1 ≤ p.spindle → p.spindle ≤ s.spindles.length →
                  (spindle p.spindle t).state = .broken 0 ∨ (spindle p.spindle t).state = .offered 0)
              ∧ (∃ offered, (∀ m ∈ offered, isOffer m = true)
                  ∧ outgoing c.other.agent t = outgoing c.other.agent s ++ offered)
              ∧ Kept (.presence :: .parkingMarks :: .lamps :: offers) s t)
          ∧ (completes → t.dfs.doff = some .doffing ∧ DoffingEntered (afterRecall c s) s t
              ∧ ((s.slc.tx.get .ad).length < 4 → outgoing .ad t = outgoing .ad s ++ [.doffStart])
              ∧ ((s.slc.tx.get c.other.agent).length + (openOffers c.other s).length ≤ 4 →
                  outgoing c.other.agent t = outgoing c.other.agent s ++ openOffers c.other s)))
      ∧ (∀ r q, a = .rt → s.part = .commissioned →
          ((requestList s).find? fun x => x.2.phase.inService) = some (r, q) →
          ∃ q', recordAt r t = some (.bay q') ∧ q'.phase = .waiting ∧ q'.bay = q.bay)
      ∧ Kept (.presence :: .lamps :: doffEntries) s t)

/-! ## Agent frames -/

/-- An agent's status is taken field by field by the block that owns the agent: a position is brought into 1 to 1,728, and
a direction or mode code that names nothing leaves its field. A carriage that turned has no skipped record left. A PRESENT and
enabled carriage that stands WORKING, its window and source queue with room and the sequencer giving its permission, is then
offered the nearest record of its queue in its direction of travel, and the next nearest where its window was empty: the
JOB_OFFER carries the next tag, the spindle, the origin and the attempts, the record is OFFERED with that tag and accept_timeout,
its spindle is OFFERED, and the next tag rises by one from 255 to 0 for each (R67, R68, R73 to R77, R121, R144). -/
def Obligations.AgentStatusIsKept : Prop :=
  ∀ (a : Agent) (position direction mode : Nat) (seq : Byte) (rest : List RxFrame) (s : State),
    s.slc.rx = { agent := a, msg := .status position direction mode, seq := seq } :: rest →
    ∃ t, exec .agentStatus s = .next t ∧ Left rest s t
      ∧ (a = .ad → t.dfs.doffer = modeFrom mode s.dfs.doffer ∧ Kept (.doffer :: takings) s t)
      ∧ (a = .rt → t.rvm.mode = modeFrom mode s.rvm.mode
          ∧ (mode ≠ 0 → Kept (.transportMode :: takings) s t)
          ∧ Kept (.transportMode :: (takings ++ callings)) s t)
      ∧ (∀ c : Carriage, a = c.agent →
          carriageReport (carriage c t) = (max 1 (min position 1728),
            (if direction = 0 then .up else if direction = 1 then .down else (carriage c s).direction),
            modeFrom mode (carriage c s).mode)
          ∧ carriageReport (carriage c.other t) = carriageReport (carriage c.other s)
          ∧ (permitted s = false → outgoing a t = outgoing a s ∧ (carriage c t).nextTag = (carriage c s).nextTag)
          ∧ (∀ r p, let turned := decide ((carriage c t).direction ≠ (carriage c s).direction)
              let tag := (carriage c s).nextTag
              s.part = .commissioned → modeFrom mode (carriage c s).mode = .working → (carriage c s).enabled = true →
              present a s = true → permitted s = true → (openOffers c s).length < 2 → (s.slc.tx.get a).length < 4 →
              NextInQueue c turned (carriage c t) (fun _ => True) r p s →
              recordAt r t = some (.piece { p with phase := .offered tag (carriage c s).acceptTimeout })
              ∧ (1 ≤ p.spindle → p.spindle ≤ s.spindles.length → (spindle p.spindle t).state = .offered 0)
              ∧ (∃ more, outgoing a t = outgoing a s ++ .jobOffer tag p.spindle p.origin p.attempts :: more)
              ∧ ((openOffers c s).length = 1 ∨ (∀ q p', q ≠ r → ¬ InQueue c turned q p' s) →
                  outgoing a t = outgoing a s ++ [.jobOffer tag p.spindle p.origin p.attempts]
                  ∧ (carriage c t).nextTag = (tag + 1) % 256)
              ∧ ∀ q p', openOffers c s = [] → (s.slc.tx.get a).length < 3 →
                  NextInQueue c turned (carriage c t) (fun x => x ≠ r) q p' s →
                  recordAt q t = some (.piece { p' with phase := .offered ((tag + 1) % 256) (carriage c s).acceptTimeout })
                  ∧ outgoing a t = outgoing a s ++ [.jobOffer tag p.spindle p.origin p.attempts,
                      .jobOffer ((tag + 1) % 256) p'.spindle p'.origin p'.attempts]
                  ∧ (carriage c t).nextTag = (tag + 2) % 256)
          ∧ ((carriage c t).direction ≠ (carriage c s).direction →
              ∀ q p skip, recordAt q t = some (.piece p) → p.carriage = c → p.phase = .queued false skip → skip = false)
          ∧ Kept (.carriageStatus :: (takings ++ offers)) s t)

/-- A JOB_ACCEPT makes the OFFERED record it matches ACCEPTED with result_timeout, repeats nothing on an ACCEPTED one, and is
answered JOB_CANCEL when it matches none (R80). Where that frame begins at once the dispatcher makes its offer test after it
(R103). -/
def Obligations.JobAcceptActsByItsRecord : Prop :=
  ∀ (c : Carriage) (tag : Nat) (seq : Byte) (rest : List RxFrame) (s : State),
    s.slc.rx = { agent := c.agent, msg := .accept tag, seq := seq } :: rest →
    ∃ t, exec .jobAccept s = .next t ∧ Left rest s t
      ∧ (∀ r p left, Matches c tag r p s → p.phase = .offered tag left →
          jobsOf t = (jobsOf s).set r (some (.piece { p with phase := .accepted tag (carriage c s).resultTimeout }))
          ∧ Kept (.jobs :: takings) s t)
      ∧ (∀ r p left, Matches c tag r p s → p.phase = .accepted tag left → Kept takings s t)
      ∧ (NoMatch c tag s →
          (Quiet c.agent s → Placed c.agent (.jobCancel tag) s t ∧ Kept (takings ++ sends) s t)
          ∧ ((s.slc.tx.get c.agent).length < 4 → ∃ offered, (∀ m ∈ offered, isOffer m = true)
              ∧ outgoing c.agent t = outgoing c.agent s ++ .jobCancel tag :: offered)
          ∧ Kept (takings ++ (offers ++ callings)) s t)

/-- A JOB_DECLINE requeues the record it matches with its attempts unchanged and skip YES, and its spindle is BROKEN with good
count 0; where its carriage is no longer a candidate the record is assigned afresh, to the other carriage with skip NO or,
where that is none either, unserved; one that matches nothing is discarded (R69, R70, R81). That the skip mark of an unserved
record is NO is the model's choice (log entry 20). -/
def Obligations.JobDeclineRequeues : Prop :=
  ∀ (c : Carriage) (tag : Nat) (seq : Byte) (rest : List RxFrame) (s : State),
    s.slc.rx = { agent := c.agent, msg := .decline tag, seq := seq } :: rest →
    ∃ t, exec .jobDecline s = .next t ∧ Left rest s t
      ∧ (∀ r p, Matches c tag r p s → Alone r p.spindle s → (carriage c s).candidate p.spindle = true →
          recordAt r t = some (.piece { p with phase := .queued false true })
            ∧ (spindle p.spindle t).state = .broken 0)
      ∧ (∀ r p, Matches c tag r p s → Alone r p.spindle s →
          (carriage .pc1 s).candidate p.spindle = false → (carriage .pc2 s).candidate p.spindle = false →
          recordAt r t = some (.piece { p with carriage := .pc1, phase := .queued true false })
            ∧ (spindle p.spindle t).state = .broken 0)
      ∧ (∀ r p, Matches c tag r p s → Alone r p.spindle s → (carriage c s).candidate p.spindle = false →
          CameBack (reassigned p s) r t)
      ∧ (NoMatch c tag s → Kept takings s t)
      ∧ Kept (takings ++ offers) s t

/-- A JOB_RESULT is acknowledged TAKEN and its code decides: PIECED leaves the record VERIFYING, FAILED charges an attempt,
NO_ROVING makes it a HOLD record, within the reserve of its class or from the free shared records that its PIECE record
leaves, or else leaves the spindle UNLISTED, and any other code is SKIPPED. After FAILED and SKIPPED the record is QUEUED with
skip YES on its own carriage, or assigned afresh where that no longer serves the spindle: to the other carriage with skip NO
or, where that is none either, unserved. One that matches nothing is acknowledged STALE and changes nothing (R52, R54, R69,
R70, R74, R79, R84 to R86), but for the offer test that follows where that frame begins at once (R103). That the skip mark of
an unserved record is NO, also where the event's own is YES, is the model's choice (log entry 20). -/
def Obligations.JobResultSettlesTheRecord : Prop :=
  ∀ (c : Carriage) (tag code : Nat) (seq : Byte) (rest : List RxFrame) (s : State),
    s.slc.rx = { agent := c.agent, msg := .result tag code, seq := seq } :: rest →
    ∃ t, exec .jobResult s = .next t ∧ Left rest s t
      ∧ (NoMatch c tag s →
          (Quiet c.agent s → Placed c.agent (.resultAck tag false) s t ∧ Kept (takings ++ sends) s t)
          ∧ ((s.slc.tx.get c.agent).length < 4 → ∃ offered, (∀ m ∈ offered, isOffer m = true)
              ∧ outgoing c.agent t = outgoing c.agent s ++ .resultAck tag false :: offered)
          ∧ Kept (takings ++ (offers ++ callings)) s t)
      ∧ (∀ r p, Matches c tag r p s → Alone r p.spindle s →
          let n := p.spindle
          ((s.slc.tx.get c.agent).length < 4 →
            ∃ more, outgoing c.agent t = outgoing c.agent s ++ .resultAck tag true :: more)
          ∧ (code = 0 → recordAt r t = some (.piece { p with phase := .verifying (carriage c s).resultTimeout })
              ∧ (spindle n t).state = .verify)
          ∧ (code = 1 → p.attempts + 1 < (carriage c s).maxAttempts → (carriage c s).candidate n = true →
              recordAt r t = some (.piece { p with attempts := p.attempts + 1, phase := .queued false true })
                ∧ (spindle n t).state = .broken 0)
          ∧ (code = 1 → p.attempts + 1 < (carriage c s).maxAttempts → (carriage c s).candidate n = false →
              CameBack (reassigned { p with attempts := p.attempts + 1 } s) r t)
          ∧ (code = 1 → (carriage c s).maxAttempts ≤ p.attempts + 1 →
              LockedOut n s t)
          ∧ (code = 2 → inUse .hold s < s.pool.reserves.hold →
              recordAt r t = some (.hold { spindle := n, origin := p.origin, opened := p.opened })
                ∧ (spindle n t).state = .rovingWait 0
                ∧ ∀ e, (spindle n s).roving = some e → (spindle n t).roving = some { e with mark := .empty })
          ∧ (code = 2 → s.pool.reserves.hold ≤ inUse .hold s →
              ((s.slc.tx.get c.agent).length < 4 ∨ s.slc.txDrop.get c.agent < 65535 ∨ s.mfh.live.counterSaturated = true)
                ∧ 0 < freeShared (setRecord r none s) ∨ 2 < freeShared (setRecord r none s) →
              recordAt r t = some (.hold { spindle := n, origin := p.origin, opened := p.opened })
                ∧ (spindle n t).state = .rovingWait 0
                ∧ ∀ e, (spindle n s).roving = some e → (spindle n t).roving = some { e with mark := .empty })
          ∧ (code = 2 → s.pool.reserves.hold ≤ inUse .hold s → freeShared (setRecord r none s) = 0 →
              (spindle n t).state = .unlisted 0 true p.origin
                ∧ ∀ e, (spindle n s).roving = some e → (spindle n t).roving = some { e with mark := .empty })
          ∧ (3 ≤ code → (carriage c s).candidate n = true →
              recordAt r t = some (.piece { p with phase := .queued false true })
                ∧ (spindle n t).state = .broken 0)
          ∧ (3 ≤ code → (carriage c s).candidate n = false → CameBack (reassigned p s) r t)
          ∧ Kept (takings ++ closings) s t)

/-- PARKED sets the carriage's mode. In DOFF_CALLED it sets the PRESENT carriage's parking mark, and when that completes the
wait DOFFING is entered: DOFF_START goes to the autodoffer and JOB_CANCEL to a carriage for each of its open offers, every
PIECE record is closed DOFF and its spindle IDLE, the cops are counted and the builds zeroed. A staged process table comes
into force, with every position rescaled to the new budget and marked afresh and the call test of every bay; and so does a
staged partition that is to be applied at the doff and fits, any other staying staged (R23, R37, R39, R44, R61, R67, R112,
R116, R118, R138, R140, R141). That the marks end at the entry is the model's (log entry 29), and so is the rising record
number of the JOB_CANCEL frames (log entry 19). -/
def Obligations.ParkedCarriageCompletesTheWait : Prop :=
  ∀ (c : Carriage) (seq : Byte) (rest : List RxFrame) (s : State),
    s.slc.rx = { agent := c.agent, msg := .parked, seq := seq } :: rest →
    ∃ t, exec .parked s = .next t ∧ Left rest s t
      ∧ carriageReport (carriage c t) = ((carriage c s).position, (carriage c s).direction, .parked)
      ∧ carriageReport (carriage c.other t) = carriageReport (carriage c.other s)
      ∧ (s.dfs.doff ≠ some .called → Kept (.carriageStatus :: takings) s t)
      ∧ (s.dfs.doff = some .called → present c.agent s = true →
          (s.dfs.stopSeen ≠ some true ∨ present c.other.agent s = true ∧ parkMark c.other s ≠ some true) →
          parkMark c t = some true ∧ parkMark c.other t = parkMark c.other s ∧ t.dfs.stopSeen = s.dfs.stopSeen
            ∧ Kept (.carriageStatus :: .parkingMarks :: takings) s t)
      ∧ (s.dfs.doff = some .called → present c.agent s = true → s.dfs.stopSeen = some true →
          (present c.other.agent s = false ∨ parkMark c.other s = some true) →
          t.dfs.doff = some .doffing ∧ DoffingEntered s.spindles s t
            ∧ ((s.slc.tx.get .ad).length < 4 → outgoing .ad t = outgoing .ad s ++ [.doffStart])
            ∧ ∀ d : Carriage, (s.slc.tx.get d.agent).length + (openOffers d s).length ≤ 4 →
                outgoing d.agent t = outgoing d.agent s ++ openOffers d s)
      ∧ Kept (.carriageStatus :: (takings ++ doffEntries)) s t

/-- The autodoffer's frames: in DOFFING, DOFF_PROGRESS sets the progress, DOFF_DONE completes the doff, and DOFF_FAULT
makes the state DOFF_FAULT with cause DOFFER; outside it the first two are answered DOFF_ABORT but for a standing
DOFF_FAULT, and DOFF_FAULT is discarded (R142 to R144). -/
def Obligations.AutodofferFramesMoveTheDoff : Prop :=
  ∀ (seq : Byte) (rest : List RxFrame) (s : State),
    let head := fun msg => s.slc.rx = { agent := .ad, msg := msg, seq := seq } :: rest
    let stray := fun t => ((∀ cause, s.dfs.doff ≠ some (.fault cause)) →
        Placed .ad .doffAbort s t ∧ Kept (takings ++ sends) s t)
      ∧ ((∃ cause, s.dfs.doff = some (.fault cause)) → Kept takings s t)
    (∀ n, head (.progress n) → ∃ t, exec .doffProgress s = .next t ∧ Left rest s t
      ∧ (s.dfs.doff = some .doffing → t.dfs.progress = min 72 n ∧ Kept (.progress :: takings) s t)
      ∧ (s.dfs.doff ≠ some .doffing → stray t))
    ∧ (head .doffDone → ∃ t, exec .doffDone s = .next t ∧ Left rest s t
      ∧ (s.dfs.doff = some .doffing →
          t.dfs.doff = some .restarting ∧ t.dfs.doffTimer = none ∧ t.dfs.build = 0
            ∧ t.pcu.frame.doffs = min 65535 (s.pcu.frame.doffs + 1) ∧ (65535 ≤ s.pcu.frame.doffs → Saturated s t)
            ∧ t.pcu.frame.fullCops = s.pcu.frame.fullCops ∧ t.pcu.frame.partialCops = s.pcu.frame.partialCops
            ∧ Driven .restartPermit s t ∧ t.dfs.grace = some (s.dfs.timers.grace * 1000)
            ∧ (∀ c : Carriage, present c.agent s = true → (s.slc.tx.get c.agent).length < 4 →
                outgoing c.agent t = outgoing c.agent s ++ [.release])
            ∧ Kept (.doffTimer :: .build :: .doffCounts :: .grace :: (takings ++ sends ++ drives ++ doffMoves)) s t)
      ∧ (s.dfs.doff ≠ some .doffing → stray t))
    ∧ (head .doffFault → ∃ t, exec .doffFault s = .next t ∧ Left rest s t
      ∧ (s.dfs.doff = some .doffing → t.dfs.doff = some (.fault .doffer) ∧ t.dfs.doffTimer = none
          ∧ t.mfh.live.doffFault = true ∧ Kept (.doffTimer :: (takings ++ doffMoves)) s t)
      ∧ (s.dfs.doff ≠ some .doffing → Kept takings s t))

/-- A BAY_ACCEPT makes the bay's OFFERED request ACCEPTED with bay_timeout, repeats nothing on an ACCEPTED one, is answered
BAY_WITHDRAW where the bay has no request or one in another state, and is discarded when it names no bay (R123). Where that
frame begins at once the monitor makes its offer test after it (R103). -/
def Obligations.BayAcceptActsByItsRequest : Prop :=
  ∀ (b : Nat) (seq : Byte) (rest : List RxFrame) (s : State),
    s.slc.rx = { agent := .rt, msg := .bayAccept b, seq := seq } :: rest →
    ∃ t, exec .bayAccept s = .next t ∧ Left rest s t
      ∧ (1 ≤ b → b ≤ 72 →
          (∀ r q left, requestOf b s = some (r, q) → q.phase = .offered left →
            jobsOf t = (jobsOf s).set r (some (.bay { q with phase := .accepted s.rvm.marks.bayTimeout }))
              ∧ Kept (.jobs :: takings) s t)
          ∧ (∀ r q left, requestOf b s = some (r, q) → q.phase = .accepted left → Kept takings s t)
          ∧ (requestOf b s = none
                ∨ (∃ r q, requestOf b s = some (r, q) ∧ (q.phase = .waiting ∨ ∃ left, q.phase = .refusedWait left)) →
              (Quiet .rt s → Placed .rt (.bayWithdraw b) s t ∧ Kept (takings ++ sends) s t)
              ∧ ((s.slc.tx.get .rt).length < 4 → ∃ more, outgoing .rt t = outgoing .rt s ++ .bayWithdraw b :: more)
              ∧ Kept (takings ++ (offers ++ callings)) s t))
      ∧ (b < 1 ∨ 72 < b → Kept takings s t)

/-- A BAY_DONE for a request in service counts a bay done, closes the request (it leaves the list, its record is freed, and
BAY_CLOSED is raised) and refills the positions it reports that the request lists. A ROVING_WAIT spindle among them asks for a
PIECE record of origin ROVING_RETURN. An UNLISTED one loses its note and, the request's record freed, is handed a PIECE record
by the sweep, which serves the UNLISTED spindles in ascending order while the pool has records, or stays UNLISTED where it has
none for it. A bay done that its counter's top cuts short sets COUNTER_SATURATED. A BAY_DONE that names no bay is discarded,
and one that meets no request in service is answered BAY_WITHDRAW (R20, R23, R37, R50 to R53, R55, R57, R58, R69, R114, R115, R119,
R124, R204). Where that answer begins at once the monitor makes its offer test after it (R103). -/
def Obligations.BayDoneRefillsItsPositions : Prop :=
  ∀ (b : Nat) (offsets : List Nat) (seq : Byte) (rest : List RxFrame) (s : State),
    s.slc.rx = { agent := .rt, msg := .bayDone b offsets, seq := seq } :: rest →
    ∃ t, exec .bayDone s = .next t ∧ Left rest s t
      ∧ (b < 1 ∨ 72 < b → Kept takings s t)
      ∧ (1 ≤ b → b ≤ 72 →
          requestOf b s = none ∨ (∃ r q, requestOf b s = some (r, q) ∧ q.phase.inService = false) →
          (Quiet .rt s → Placed .rt (.bayWithdraw b) s t ∧ Kept (takings ++ sends) s t)
          ∧ ((s.slc.tx.get .rt).length < 4 → ∃ more, outgoing .rt t = outgoing .rt s ++ .bayWithdraw b :: more)
          ∧ Kept (takings ++ (offers ++ callings)) s t)
      ∧ (∀ r q, 1 ≤ b → b ≤ 72 → requestOf b s = some (r, q) → q.phase.inService = true →
          let replaced := replacedOf q offsets
          let listless := ∀ e ∈ s.spindles, e.state.isUnlisted = false
          let running := ∀ n ∈ q.positions, (spindle n s).state.isRovingWait = false
          t.pcu.frame.baysDone = min 65535 (s.pcu.frame.baysDone + 1) ∧ (65535 ≤ s.pcu.frame.baysDone → Saturated s t)
          ∧ (∃ more, t.rvm.requests = s.rvm.requests.filter (fun x => decide (x ≠ r)) ++ more)
          ∧ (∀ q', recordAt r t = some (.bay q') → FreshRequest q' s)
          ∧ (listless → running → noticeEnabled .bayClosed s = true → 4 ≤ freeRecords s →
              inUse .notice s + 4 ≤ s.pool.reserves.notice →
              ∃ x number, recordAt x t = some (.notice
                { kind := .bayClosed, number := number, stamp := stampNow s
                  args := [(b : Int), 0, (q.positions.length : Int), (replaced.length : Int)] }))
          ∧ (listless → running →
              t.spindles.map Spindle.state = s.spindles.map Spindle.state
              ∧ ∀ n e, 1 ≤ n → n ≤ s.spindles.length → (spindle n s).roving = some e →
                  (spindle n t).roving
                    = if n ∈ q.positions ∧ ∃ o ∈ offsets, 1 ≤ o ∧ o ≤ 24 ∧ n = 24 * (b - 1) + o then
                        some { remaining := budget s, mark := .full }
                      else some e)
          ∧ (listless → permitted s = false → inUse .piece s + q.positions.length ≤ s.pool.reserves.piece →
              5 * q.positions.length + 4 ≤ freeRecords s →
              ∀ n ∈ replaced, n ≤ s.spindles.length →
                (∀ e, (spindle n s).roving = some e →
                  (spindle n t).roving = some { remaining := budget s, mark := .full })
                ∧ ((spindle n s).state.isRovingWait = false → (spindle n t).state = (spindle n s).state)
                ∧ ((spindle n s).state.isRovingWait = true →
                    (spindle n t).state = .broken 0
                    ∧ ∃ x p, recordAt x t = some (.piece p) ∧ p.spindle = n ∧ p.origin = .rovingReturn
                        ∧ p.opened = stampNow s ∧ p.attempts = 0))
          ∧ (running → ∀ n good note origin, n ∈ replaced → n ≤ s.spindles.length →
              (spindle n s).state = .unlisted good note origin →
              (s.pool.reserves.piece ≤ inUse .piece s → freeShared (setRecord r none s) = 0 →
                (spindle n t).state = .unlisted good false origin)
              ∧ ((∀ m, m ≠ n → 1 ≤ m → (spindle m s).state.isUnlisted = false) → permitted s = false →
                inUse .piece s < s.pool.reserves.piece → 4 ≤ freeRecords s →
                (spindle n t).state = .broken 0
                ∧ ∃ x p, recordAt x t = some (.piece p) ∧ p.spindle = n ∧ p.origin = origin
                    ∧ p.opened = stampNow s ∧ p.attempts = 0))
          ∧ (running → Sweepable s →
              Swept (testPoolLow (setRecord r none { s with spindles := refilled replaced s })) t)
          ∧ (∀ n o, listless → q.positions = [n] → o ∈ offsets → 1 ≤ o → o ≤ 24 → n = 24 * (b - 1) + o →
              n ≤ s.spindles.length → (spindle n s).state.isRovingWait = true →
              inUse .piece s < s.pool.reserves.piece → 3 ≤ freeRecords s → permitted s = false →
              (spindle n t).state = .broken 0
                ∧ ∃ x p, recordAt x t = some (.piece p) ∧ p.spindle = n ∧ p.origin = .rovingReturn ∧ p.attempts = 0))
      ∧ Kept (.baysDone :: (takings ++ sweeps)) s t

/-- A BAY_REFUSED sends the bay's request in service to REFUSED_WAIT with retry_delay and no frame for it; where the bay
has none in service, or the refusal names no bay, it is discarded (R125). -/
def Obligations.BayRefusedWaitsItsDelay : Prop :=
  ∀ (b : Nat) (seq : Byte) (rest : List RxFrame) (s : State),
    s.slc.rx = { agent := .rt, msg := .bayRefused b, seq := seq } :: rest →
    ∃ t, exec .bayRefused s = .next t ∧ Left rest s t
      ∧ (∀ r q, 1 ≤ b → b ≤ 72 → requestOf b s = some (r, q) → q.phase.inService = true →
          recordAt r t = some (.bay { q with phase := .refusedWait s.rvm.marks.retryDelay })
            ∧ (s.rvm.mode ≠ .working →
                jobsOf t = (jobsOf s).set r (some (.bay { q with phase := .refusedWait s.rvm.marks.retryDelay }))
                  ∧ Kept (.jobs :: takings) s t)
            ∧ Kept (takings ++ callings) s t)
      ∧ (b < 1 ∨ 72 < b ∨ requestOf b s = none ∨ (∃ r q, requestOf b s = some (r, q) ∧ q.phase.inService = false) →
          Kept takings s t)

/-- While the part is UNCONFIGURED a carriage's status and PARKED update its status, its result is STALE, its accept is
cancelled and its decline is discarded; the transport's accept and done are answered BAY_WITHDRAW and its refusal is
discarded (R91, R128). -/
def Obligations.UnconfiguredPartAnswersAgents : Prop :=
  ∀ (seq : Byte) (rest : List RxFrame) (s : State), s.part = .unconfigured → NoPieces s → s.rvm.requests = [] →
    let head := fun a msg => s.slc.rx = { agent := a, msg := msg, seq := seq } :: rest
    (∀ c : Carriage,
      (∀ p d m, head c.agent (.status p d m) → ∃ t, exec .agentStatus s = .next t ∧ Left rest s t
        ∧ carriageReport (carriage c t) = (max 1 (min p 1728),
            (if d = 0 then .up else if d = 1 then .down else (carriage c s).direction), modeFrom m (carriage c s).mode)
        ∧ carriageReport (carriage c.other t) = carriageReport (carriage c.other s)
        ∧ Kept (.carriageStatus :: takings) s t)
      ∧ (s.dfs.doff = none → head c.agent .parked → ∃ t, exec .parked s = .next t ∧ Left rest s t
        ∧ (carriage c t).mode = .parked ∧ Kept (.carriageStatus :: takings) s t)
      ∧ (∀ tag code, head c.agent (.result tag code) → ∃ t, exec .jobResult s = .next t ∧ Left rest s t
        ∧ Placed c.agent (.resultAck tag false) s t ∧ Kept (takings ++ sends) s t)
      ∧ (∀ tag, head c.agent (.accept tag) → ∃ t, exec .jobAccept s = .next t ∧ Left rest s t
        ∧ Placed c.agent (.jobCancel tag) s t ∧ Kept (takings ++ sends) s t)
      ∧ (∀ tag, head c.agent (.decline tag) → ∃ t, exec .jobDecline s = .next t ∧ Left rest s t ∧ Kept takings s t))
    ∧ (∀ b, 1 ≤ b → b ≤ 72 →
      (head .rt (.bayAccept b) → ∃ t, exec .bayAccept s = .next t ∧ Left rest s t
        ∧ Placed .rt (.bayWithdraw b) s t ∧ Kept (takings ++ sends) s t)
      ∧ (∀ offsets, head .rt (.bayDone b offsets) → ∃ t, exec .bayDone s = .next t ∧ Left rest s t
        ∧ Placed .rt (.bayWithdraw b) s t ∧ Kept (takings ++ sends) s t)
      ∧ (head .rt (.bayRefused b) → ∃ t, exec .bayRefused s = .next t ∧ Left rest s t ∧ Kept takings s t))

/-! ## The mill link -/

/-- A frame arriving on the mill link: one that fails a test is discarded and counted; a part without a frame number adopts
one from the first good frame addressed to 0x81 or above; a good frame addressed to the part joins the receive queue, or is
counted as lost when it holds 8; any other is let pass. A count at its counter's top sets COUNTER_SATURATED (R198). -/
def Obligations.MillFramesAreReceived : Prop :=
  ∀ (bytes : List Byte) (s : State),
    (judgeMill bytes = .error → ∃ t, exec (.millLinkFrameReceived bytes) s = .next t
      ∧ t.mfh.rxError = min 65535 (s.mfh.rxError + 1) ∧ t.mfh.rxOverflow = s.mfh.rxOverflow
      ∧ (65535 ≤ s.mfh.rxError → Saturated s t)
      ∧ Kept (.millErrors :: .lamps :: reports) s t)
    ∧ (∀ f, judgeMill bytes = .good f → ∃ t, exec (.millLinkFrameReceived bytes) s = .next t
      ∧ ((∃ n, s.mfh.frameNumber = some n ∧ f.dest ≠ millAddr n) ∨ s.mfh.frameNumber = none ∧ f.dest.toNat < 0x81 →
          Kept [.lamps] s t)
      ∧ ((∃ n, s.mfh.frameNumber = some n ∧ f.dest = millAddr n) →
          (s.mfh.rx.length < 8 → t.mfh.rx = s.mfh.rx ++ [f] ∧ Kept [.millRx, .lamps] s t)
          ∧ (8 ≤ s.mfh.rx.length → t.mfh.rxOverflow = min 65535 (s.mfh.rxOverflow + 1)
              ∧ (65535 ≤ s.mfh.rxOverflow → Saturated s t)
              ∧ t.mfh.rxError = s.mfh.rxError ∧ Kept (.millErrors :: .lamps :: reports) s t))
      ∧ (s.mfh.frameNumber = none → 0x81 ≤ f.dest.toNat →
          t.mfh.frameNumber = some (f.dest.toNat - 0x80)
            ∧ (s.mfh.rx.length < 8 → t.mfh.rx = s.mfh.rx ++ [f])
            ∧ (8 ≤ s.mfh.rx.length → t.mfh.rx = s.mfh.rx ∧ t.mfh.rxOverflow = min 65535 (s.mfh.rxOverflow + 1)
                ∧ (65535 ≤ s.mfh.rxOverflow → Saturated s t))
            ∧ Kept (.frameNumber :: .millRx :: .millErrors :: .lamps :: reports) s t))

/-- When a frame up the mill link ends the next begins: the RESPONSE in the slot, else the head of the notice queue or of the
forward queue, the one not served last looked at first. The record of a sent NOTICE goes back to the pool, and a pass of the
UNLISTED sweep follows, which hands the free records to the UNLISTED spindles in ascending order: each asks for a PIECE
record, or for a HOLD one where its break is noted, takes the lowest-numbered free one, and stays UNLISTED where the pool
refuses (R20, R50 to R53, R55 to R57, R69, R77, R114, R203). -/
def Obligations.MillFrameEndBeginsTheNext : Prop :=
  ∀ (x : MillTx) (n : Nat) (s : State), s.mfh.tx = some x → s.mfh.frameNumber = some n →
    ∃ t, exec .millLinkFrameEnd s = .next t
      ∧ ((∀ r, x.source ≠ .notice r) →
        (∀ f, s.mfh.slot = some f → t.mfh.tx = some { source := .response, frame := f.wire n } ∧ t.mfh.slot = none
          ∧ Kept [.millTx, .slot, .lamps] s t)
        ∧ (∀ r rest note, s.mfh.slot = none → s.mfh.notices = r :: rest → recordAt r s = some (.notice note) →
            (s.mfh.pointer = .forward ∨ s.fli.forward = []) →
            (∃ seq, t.mfh.tx = some
              { source := .notice r, frame := MillFrame.wire { kind := kNotice, seq := seq, payload := note.payload } n })
            ∧ t.mfh.notices = rest ∧ t.mfh.pointer = .notices
            ∧ Kept [.millTx, .notices, .millPointer, .freeCount, .lamps] s t)
        ∧ (∀ f rest, s.mfh.slot = none → s.fli.forward = f :: rest →
            (s.mfh.pointer = .notices ∨ s.mfh.notices = []) →
            t.mfh.tx = some { source := .forward, frame := f.wire n } ∧ t.fli.forward = rest
              ∧ t.mfh.pointer = .forward ∧ Kept [.millTx, .forward, .millPointer, .lamps] s t)
        ∧ (s.mfh.slot = none → s.mfh.notices = [] → s.fli.forward = [] → t.mfh.tx = none ∧ Kept [.millTx, .lamps] s t))
      ∧ (∀ r, x.source = .notice r → (∀ e ∈ s.spindles, e.state.isUnlisted = false) → 8 < freeShared s →
          recordAt r t = none ∧ (∀ q, q ≠ r → recordAt q t = recordAt q s)
            ∧ (∀ f, s.mfh.slot = some f → t.mfh.tx = some { source := .response, frame := f.wire n })
            ∧ (∀ q rest note, s.mfh.slot = none → s.mfh.notices = q :: rest → q ≠ r →
                recordAt q s = some (.notice note) → (s.mfh.pointer = .forward ∨ s.fli.forward = []) →
                (∃ seq, t.mfh.tx = some
                  { source := .notice q, frame := MillFrame.wire { kind := kNotice, seq := seq, payload := note.payload } n })
                ∧ t.mfh.notices = rest ∧ t.mfh.pointer = .notices ∧ t.fli.forward = s.fli.forward)
            ∧ (∀ f rest, s.mfh.slot = none → s.fli.forward = f :: rest →
                (s.mfh.pointer = .notices ∨ s.mfh.notices = []) →
                t.mfh.tx = some { source := .forward, frame := f.wire n } ∧ t.fli.forward = rest
                  ∧ t.mfh.pointer = .forward ∧ t.mfh.notices = s.mfh.notices)
            ∧ (s.mfh.slot = none → s.mfh.notices = [] → s.fli.forward = [] → t.mfh.tx = none))
      ∧ (∀ r, x.source = .notice r → Sweepable s → Swept (testPoolLow (setRecord r none s)) t)
      ∧ Kept (.lamps :: sweeps) s t

/-! ## The clock and the timers -/

/-- A sub-second step counts, applies a waiting trim, and at 256 makes a second event or absorbs the one owed (R172, R173,
R176 to R178). That the row takes the second event it makes with it is the model's (log entry 4), and so is that a timer which
that event brings to 0 stops there, its expiry being a command of its own and no part of this one (log entry 5). -/
def Obligations.SubSecondStepCountsAndTrims : Prop :=
  ∀ s : State, ∃ t, exec .subSecondStep s = .next t
    ∧ ((∀ cv, s.scs.trim ≠ .waiting cv) → s.scs.sub < 255 →
        t.scs.sub = s.scs.sub + 1 ∧ clockFace t.scs = clockFace s.scs ∧ Kept [.time, .lamps] s t)
    ∧ (s.scs.trim = .none → 255 ≤ s.scs.sub →
        t.scs.sub = 0 ∧ t.scs.trim = .none ∧ Ticked s t ∧ Kept (.lamps :: secondEvents) s t)
    ∧ (∀ cv, s.scs.trim = .owing cv → 255 ≤ s.scs.sub →
        t.scs.sub = 0 ∧ t.scs.trim = .none ∧ clockFace t.scs = clockFace s.scs
          ∧ (noticeEnabled .trimDone s = true → canGrant .notice s = true → none ∈ s.pool.records →
              Raised .trimDone [cv, 2] s t)
          ∧ Kept (.time :: .trim :: .lamps :: reports) s t)
    ∧ (∀ cv : Int, s.scs.trim = .waiting cv → s.scs.sub < 255 →
        (0 ≤ (s.scs.sub : Int) + 1 + cv → (s.scs.sub : Int) + 1 + cv < 256 →
          (t.scs.sub : Int) = s.scs.sub + 1 + cv ∧ t.scs.trim = .none ∧ clockFace t.scs = clockFace s.scs
            ∧ (noticeEnabled .trimDone s = true → canGrant .notice s = true → none ∈ s.pool.records →
                Raised .trimDone [cv, 0] s t)
            ∧ Kept (.time :: .trim :: .lamps :: reports) s t)
        ∧ ((s.scs.sub : Int) + 1 + cv < 0 → -64 ≤ cv →
          (t.scs.sub : Int) = s.scs.sub + 1 + cv + 256 ∧ t.scs.trim = .owing cv ∧ clockFace t.scs = clockFace s.scs
            ∧ Kept [.time, .trim, .lamps] s t)
        ∧ (256 ≤ (s.scs.sub : Int) + 1 + cv →
          (t.scs.sub : Int) = s.scs.sub + 1 + cv - 256 ∧ t.scs.trim = .none ∧ Ticked s t
            ∧ Kept (.trim :: .lamps :: secondEvents) s t))
    ∧ (∀ cv : Int, s.scs.trim = .waiting cv → 255 ≤ s.scs.sub → -64 ≤ cv → cv ≤ 63 →
        Ticked s t
          ∧ (0 ≤ cv → (t.scs.sub : Int) = cv ∧ t.scs.trim = .none)
          ∧ (cv < 0 → (t.scs.sub : Int) = cv + 256 ∧ t.scs.trim = .owing cv)
          ∧ Kept (.trim :: .lamps :: secondEvents) s t)

/-- A second event advances the time of day, takes a second from every deadline and timer, and closes the open shift of a
commissioned part whose valid clock lands on a start time not yet closed under that day and index, which clears the live flag
COUNTER_SATURATED. A day number at its top stays there and sets that flag (R37, R48, R172, R173, R181, R183 to R185). A second
event owed to a trim is absorbed instead, and a waiting trim is applied at the first step on the way to the second event,
which it may make at once, owe, or leave to the steps that follow (R176 to R178). That the row brings the sub-second count to
its wrap is the model's (log entry 4), and so is that a timer which the second event brings to 0 stops there, its expiry being
a command of its own and no part of this one (log entry 5). -/
def Obligations.SecondEventAdvancesEveryTimer : Prop :=
  ∀ s : State, ∃ t, exec .secondEvent s = .next t
    ∧ (∀ cv, s.scs.trim = .owing cv → t.scs.sub = 0 ∧ t.scs.trim = .none ∧ clockFace t.scs = clockFace s.scs
        ∧ Kept (.time :: .trim :: .lamps :: reports) s t)
    ∧ (∀ cv : Int, s.scs.trim = .waiting cv → s.scs.sub < 255 → 0 ≤ (s.scs.sub : Int) + 1 + cv →
        (s.scs.sub : Int) + 1 + cv < 256 →
        t.scs.sub = 0 ∧ t.scs.trim = .none ∧ Ticked s t ∧ Kept (.trim :: .lamps :: secondEvents) s t)
    ∧ (∀ cv : Int, s.scs.trim = .waiting cv → -64 ≤ cv → cv ≤ 63 →
        (s.scs.sub < 255 → (s.scs.sub : Int) + 1 + cv < 0 →
          t.scs.sub = 0 ∧ t.scs.trim = .none ∧ clockFace t.scs = clockFace s.scs
            ∧ (noticeEnabled .trimDone s = true → canGrant .notice s = true → none ∈ s.pool.records →
                Raised .trimDone [cv, 2] s t)
            ∧ Kept (.time :: .trim :: .lamps :: reports) s t)
        ∧ (s.scs.sub < 255 → 256 ≤ (s.scs.sub : Int) + 1 + cv →
          (t.scs.sub : Int) = s.scs.sub + 1 + cv - 256 ∧ t.scs.trim = .none ∧ Ticked s t
            ∧ Kept (.trim :: .lamps :: secondEvents) s t)
        ∧ (255 ≤ s.scs.sub → Ticked s t ∧ Kept (.trim :: .lamps :: secondEvents) s t
          ∧ (0 ≤ cv → (t.scs.sub : Int) = cv ∧ t.scs.trim = .none)
          ∧ (cv < 0 → (t.scs.sub : Int) = cv + 256 ∧ t.scs.trim = .owing cv)))
    ∧ (s.scs.trim = .none → t.scs.sub = 0 ∧ Ticked s t
        ∧ (noShiftStarts s →
            Kept (.time :: .jobs :: .presence :: .parkTimer :: .doffTimer :: .slotTimer :: .lamps :: reports) s t)
        ∧ (∀ i, s.part = .commissioned → s.scs.valid = true → s.scs.day < 65535 →
            s.scs.shifts[i]? = some (some (daySeconds (timeAfter s.scs))) →
            (∀ j, j < i → s.scs.shifts[j]? ≠ some (some (daySeconds (timeAfter s.scs)))) →
            ((∀ r ∈ s.scs.history, r.day ≠ t.scs.day ∨ r.index ≠ i + 1) →
              ShiftFiled t.scs.day (i + 1) .clock
                (some { hours := t.scs.hours, minutes := t.scs.minutes, seconds := t.scs.seconds, day := t.scs.day }) s t)
            ∧ ((∃ r ∈ s.scs.history, r.day = t.scs.day ∧ r.index = i + 1) →
              t.scs.history = s.scs.history ∧ t.scs.openShift = s.scs.openShift))
        ∧ Kept (.lamps :: secondEvents) s t)

/-- The deadlines of a PIECE record: an accept deadline requeues it without cost and a result or verify deadline charges an
attempt, which at max_attempts locks the spindle; the first two cancel the offer. A requeued record is QUEUED with skip NO on
its own carriage, or assigned afresh where that no longer serves the spindle (R69, R70, R79, R82, R83, R87). That a row acts
when its deadline stands at 0 is the model's (log entry 5). -/
def Obligations.DeadlinesRequeueOrLock : Prop :=
  ∀ (r : Nat) (s : State),
    ((∀ p tag, recordAt r s = some (.piece p) → p.phase ≠ .offered tag 0) →
      ∃ t, exec (.acceptDeadlineExpiry r) s = .next t ∧ Kept [.lamps] s t)
    ∧ ((∀ p tag, recordAt r s = some (.piece p) → p.phase ≠ .accepted tag 0) →
      ∃ t, exec (.resultDeadlineExpiry r) s = .next t ∧ Kept [.lamps] s t)
    ∧ ((∀ p, recordAt r s = some (.piece p) → p.phase ≠ .verifying 0) →
      ∃ t, exec (.verifyDeadlineExpiry r) s = .next t ∧ Kept [.lamps] s t)
    ∧ ∀ p, recordAt r s = some (.piece p) → Alone r p.spindle s →
      let n := p.spindle
      let c := p.carriage
      let cancelled := fun (tag : Nat) (t : State) => (s.slc.tx.get c.agent).length < 4 →
        ∃ more, outgoing c.agent t = outgoing c.agent s ++ .jobCancel tag :: more
      let charged := fun (t : State) =>
        (p.attempts + 1 < (carriage c s).maxAttempts → (carriage c s).candidate n = true → permitted s = false →
          recordAt r t = some (.piece { p with attempts := p.attempts + 1, phase := .queued false false })
            ∧ (spindle n t).state = .broken 0)
        ∧ (p.attempts + 1 < (carriage c s).maxAttempts →
          CameBack (requeued { p with attempts := p.attempts + 1 } s) r t)
        ∧ ((carriage c s).maxAttempts ≤ p.attempts + 1 → LockedOut n s t)
        ∧ Kept (.lamps :: closings) s t
      (∀ tag, p.phase = .offered tag 0 → ∃ t, exec (.acceptDeadlineExpiry r) s = .next t ∧ cancelled tag t
        ∧ ((carriage c s).candidate n = true → permitted s = false →
            recordAt r t = some (.piece { p with phase := .queued false false }) ∧ (spindle n t).state = .broken 0)
        ∧ CameBack (requeued p s) r t
        ∧ Kept (.lamps :: offers) s t)
      ∧ (∀ tag, p.phase = .accepted tag 0 →
        ∃ t, exec (.resultDeadlineExpiry r) s = .next t ∧ cancelled tag t ∧ charged t)
      ∧ (p.phase = .verifying 0 → ∃ t, exec (.verifyDeadlineExpiry r) s = .next t ∧ charged t)

/-- A bay request's accept deadline and bay_timeout withdraw it and return it to WAITING, and its retry timer returns it to
WAITING with no frame; the offer test then offers it again, with 5 seconds, to a WORKING transport that serves no other
request, where it is the oldest of the most pressing (R122, R125, R126). That a row acts when its timer stands at 0 is the
model's (log entry 5). -/
def Obligations.BayTimersReturnToWaiting : Prop :=
  ∀ (b r : Nat) (q : BayRequest) (s : State), requestOf b s = some (r, q) →
    let waits := fun (t : State) =>
      (∃ q', recordAt r t = some (.bay q') ∧ q'.bay = b ∧ q'.created = q.created
        ∧ (s.rvm.mode ≠ .working → q'.phase = .waiting)
        ∧ (q'.phase = .waiting ∨ q'.phase = .offered 5)
        ∧ (∀ x ∈ requestList s, x.1 ≠ r → x.2.phase.inService = true → q'.phase = .waiting)
        ∧ ∀ older younger, requestList s = older ++ (r, q) :: younger → (∀ x ∈ older ++ younger, x.1 ≠ r) →
            s.part = .commissioned → s.rvm.mode = .working → present .rt s = true → (s.slc.tx.get .rt).length < 3 →
            (∀ x ∈ older ++ younger, x.2.phase.inService = false) →
            ((∀ x ∈ older, x.2.phase = .waiting → x.2.urgent = false ∧ q'.urgent = true)
                ∧ (∀ x ∈ younger, x.2.phase = .waiting → x.2.urgent = true → q'.urgent = true)
              ↔ q'.phase = .offered 5)
            ∧ (q'.phase = .offered 5 → ∃ before, outgoing .rt t
                = before ++ [.bayOffer b q'.urgent s.pcu.latest.run (q'.positions.map bayOffset)]))
      ∧ Kept (.lamps :: callings) s t
    let withdrawn := fun (t : State) => waits t
      ∧ ((s.slc.tx.get .rt).length < 4 → ∃ more, outgoing .rt t = outgoing .rt s ++ .bayWithdraw b :: more)
    (q.phase = .offered 0 → ∃ t, exec (.bayAcceptDeadlineExpiry b) s = .next t ∧ withdrawn t)
    ∧ (q.phase = .accepted 0 → ∃ t, exec (.bayTimeoutExpiry b) s = .next t ∧ withdrawn t)
    ∧ (q.phase = .refusedWait 0 → ∃ t, exec (.retryTimerExpiry b) s = .next t ∧ waits t
        ∧ (s.rvm.mode ≠ .working → outgoing .rt t = outgoing .rt s))
    ∧ (q.phase ≠ .offered 0 → ∃ t, exec (.bayAcceptDeadlineExpiry b) s = .next t ∧ Kept [.lamps] s t)
    ∧ (q.phase ≠ .accepted 0 → ∃ t, exec (.bayTimeoutExpiry b) s = .next t ∧ Kept [.lamps] s t)
    ∧ (q.phase ≠ .refusedWait 0 → ∃ t, exec (.retryTimerExpiry b) s = .next t ∧ Kept [.lamps] s t)

/-- The park timer makes a called doff a fault of cause PARK with its marks as they stood, and the doff timer makes a running
one a fault of cause TIMEOUT after DOFF_ABORT (R139, R142). That a row acts when its timer stands at 0 is the model's (log
entry 5). -/
def Obligations.DoffTimersFault : Prop :=
  ∀ s : State,
    (s.dfs.doff = some .called → s.dfs.parkTimer = some 0 → ∃ t, exec .parkTimerExpiry s = .next t
      ∧ t.dfs.doff = some (.fault .park) ∧ t.dfs.parkTimer = none ∧ t.mfh.live.doffFault = true
      ∧ Kept (.parkTimer :: .lamps :: doffMoves) s t)
    ∧ (s.dfs.doff = some .doffing → s.dfs.doffTimer = some 0 → ∃ t, exec .doffTimerExpiry s = .next t
      ∧ t.dfs.doff = some (.fault .timeout) ∧ t.dfs.doffTimer = none ∧ t.mfh.live.doffFault = true
      ∧ Placed .ad .doffAbort s t
      ∧ Kept (.doffTimer :: .lamps :: (sends ++ doffMoves)) s t)
    ∧ (s.dfs.doff ≠ some .called ∨ s.dfs.parkTimer ≠ some 0 →
        ∃ t, exec .parkTimerExpiry s = .next t ∧ Kept [.lamps] s t)
    ∧ (s.dfs.doff ≠ some .doffing ∨ s.dfs.doffTimer ≠ some 0 →
        ∃ t, exec .doffTimerExpiry s = .next t ∧ Kept [.lamps] s t)

/-- At a slot end the open slot joins the window, a new one starts, and the rate is evaluated: skipped outside BUILDING and
PRE_DOFF, held below min_exposure, and otherwise the last rate, by which the governor enters LIMIT, ratchets, recovers or
stays; a change of the effective cap sends SPEED_CAP (R161, R163, R164, R167). The slot timer runs from slot_len down to the
second event that ends the slot: that the row acts on a timer that this event left at 0 is the model's (log entry 5), and at
any other value, and while the part has no slot timer, the row changes nothing (log entry 1). -/
def Obligations.SlotEndMovesTheGovernor : Prop :=
  (∀ s : State, s.part ≠ .commissioned ∨ s.sgv.slotTimer ≠ some 0 → ∃ t, exec .slotEnd s = .next t ∧ Kept [.lamps] s t)
  ∧ ∀ s : State, s.part = .commissioned → s.sgv.slotTimer = some 0 →
    let window := (s.sgv.opened :: s.sgv.closed).take 16
    let breaks := (window.map Slot.breaks).sum
    let exposure := (window.map Slot.exposure).sum
    let table := s.sgv.table
    let rate := min 65535 (breaks * 3600000000 / exposure)
    let evaluates := (s.dfs.doff = some .building ∨ s.dfs.doff = some .preDoff)
      ∧ table.minExposure * 1000 ≤ exposure ∧ 0 < exposure
    ∃ t, exec .slotEnd s = .next t
      ∧ t.sgv.closed = window ∧ t.sgv.opened = { breaks := 0, exposure := 0 } ∧ t.sgv.slotTimer = some table.slotLen
      ∧ (¬ evaluates → Kept [.window, .openSlot, .slotTimer, .lamps] s t)
      ∧ (evaluates → t.sgv.lastRate = some rate
        ∧ (s.sgv.governor = .normal → table.rateLimit ≤ rate → t.sgv.governor = .limit table.entryStep)
        ∧ (s.sgv.governor = .normal → rate < table.rateLimit → t.sgv.governor = .normal)
        ∧ (∀ k, s.sgv.governor = .limit k →
            (table.rateLimit ≤ rate → table.floorStep < k → t.sgv.governor = .limit (k - 1))
            ∧ (table.rateLimit ≤ rate → k ≤ table.floorStep → t.sgv.governor = .limit k)
            ∧ (rate < table.rateLimit - table.hysteresis → k < 6 → t.sgv.governor = .limit (k + 1))
            ∧ (rate < table.rateLimit - table.hysteresis → k = 6 → t.sgv.governor = .normal)
            ∧ (table.rateLimit - table.hysteresis ≤ rate → rate < table.rateLimit → t.sgv.governor = .limit k))
        ∧ (t.sgv.governor.cap ≠ s.sgv.governor.cap → noticeEnabled .governorStep s = true → canGrant .notice s = true →
            none ∈ s.pool.records →
            Raised .governorStep [(t.sgv.governor.cap : Int), (s.sgv.governor.cap : Int), (rate : Int),
              (effectiveCap t : Int)] s t)
        ∧ (effectiveCap t = effectiveCap s → driveLine t = driveLine s ∧ t.sgv.lastSent = s.sgv.lastSent)
        ∧ (effectiveCap t ≠ effectiveCap s → t.sgv.lastSent = effectiveCap t ∧ t.sgv.sinceSent = 0
            ∧ Driven (.speedCap (effectiveCap t) (stepSpeed (effectiveCap t) s)) s t))
      ∧ Kept (.window :: .openSlot :: .slotTimer :: .lastRate :: .governor :: .lamps :: capSends) s t

/-- At the end of a blink phase a lamp that shows BLINK1 or BLINK2 toggles and runs the other length, and one that shows
another pattern stays; the other lamps stay (R207). That the row names its lamp is the model's (log entry 8). -/
def Obligations.BlinkPhasesToggle : Prop :=
  ∀ (l : Lamp) (s : State), refreshLamps s = s →
    let shown := s.mfh.lamps.get l
    ∃ t, exec (.lampBlinkPhaseEnd l) s = .next t
      ∧ (∀ other, other ≠ l → t.mfh.lamps.get other = s.mfh.lamps.get other)
      ∧ (shown.pattern = .off ∨ shown.pattern = .steady → t.mfh.lamps.get l = shown)
      ∧ (shown.pattern = .blink1 → t.mfh.lamps.get l =
          { pattern := .blink1, on := !shown.on, units := if shown.on then s.mfh.lampTable.blink1.off
            else s.mfh.lampTable.blink1.on })
      ∧ (shown.pattern = .blink2 → t.mfh.lamps.get l =
          { pattern := .blink2, on := !shown.on, units := if shown.on then s.mfh.lampTable.blink2.off
            else s.mfh.lampTable.blink2.on })
      ∧ Kept [.lamps] s t

/-! ## Table writes -/

/-- A TABLE_WRITE of one of the single-entry tables with its fields in their ranges is answered OK and becomes the entry, or
the staged one: a process table with full_cop 0 is staged with 900, one is answered CLAMPED when its budget had to be, and new
roving marks remark every position of a commissioned part (R7, R38, R39, R44, R59, R93, R111, R112, R132, R162, R200, R205).
-/
def Obligations.SingleEntryTablesAreWritten : Prop :=
  ∀ (f : LineFrame) (rest : List LineFrame) (s : State), Ready f rest s → f.kind = 0x40 →
    (∀ e, legalDetection e → f.payload = 5 :: 0 :: 0 :: detectionBytes e →
      Executes .detectionTableWrite f rest s [0, 0] [.detection] fun t => t.detection = e)
    ∧ (∀ e, legalMarks e → f.payload = 6 :: 0 :: 0 :: marksBytes e →
      Executes .rovingMarksTableWrite f rest s [0, 0] (.marks :: .roving :: callings) fun t => t.rvm.marks = e
        ∧ (s.part = .unconfigured → Kept (.marks :: answers) s t)
        ∧ (s.part = .commissioned → ∀ n r, (spindle n s).roving = some r →
            (spindle n t).roving = some (if r.mark = .empty then r
              else if r.remaining = 0 then { r with mark := .overrun }
              else if r.remaining * 1000 ≤ budget s * e.lowMark then { r with mark := .low }
              else { r with mark := .full })))
    ∧ (∀ e, legalDoffTimers e → f.payload = 7 :: 0 :: 0 :: doffTimersBytes e →
      Executes .doffTimersTableWrite f rest s [0, 0] [.doffTimers] fun t => t.dfs.timers = e)
    ∧ (∀ e, legalGovernor e → f.payload = 9 :: 0 :: 0 :: governorBytes e →
      Executes .governorTableWrite f rest s [0, 0] [.governorTable] fun t => t.sgv.table = e)
    ∧ (∀ e, legalServiceLine e → f.payload = 12 :: 0 :: 0 :: serviceLineBytes e →
      Executes .serviceLineTableWrite f rest s [0, 0] (.serviceTable :: .cond .slcLevel :: (offers ++ callings)) fun t =>
        t.slc.table = e ∧ t.mfh.live.slcLevel = decide (e.levelThreshold < s.slc.rx.length)
          ∧ ((∀ ms, s.slc.line ≠ .quiet ms) →
              Kept (.serviceTable :: .cond .slcLevel :: (reports ++ answers)) s t))
    ∧ (∀ e, legalPartition e → f.payload = 13 :: 0 :: 0 :: partitionBytes e →
      Executes .partitionTableWrite f rest s [0, 0] [.stagedPartition] fun t => t.pool.staged = some e)
    ∧ (∀ l : List Bool, l.length = 14 → f.payload = 14 :: 0 :: 0 :: be 2 (maskValue l) →
      Executes .noticeMaskWrite f rest s [0, 0] [.mask] fun t => t.mfh.mask = l)
    ∧ (∀ e, legalProcess e → f.payload = 4 :: 0 :: 0 :: processBytes e →
      Executes .processTableWrite f rest s
        [if 4294967295 < e.rovingLength * 10 ^ 7 * e.draft / e.pulseLength then 1 else 0, 0] [.staged] fun t =>
          t.pcu.staged = some e)
    ∧ (∀ e, legalProcess e → e.fullCop = 900 → f.payload = 4 :: 0 :: 0 :: processBytes { e with fullCop := 0 } →
      Executes .processTableWrite f rest s
        [if 4294967295 < e.rovingLength * 10 ^ 7 * e.draft / e.pulseLength then 1 else 0, 0] [.staged] fun t =>
          t.pcu.staged = some e)

/-- A TABLE_WRITE of a run of entries in their ranges is answered OK and takes effect entry by entry: in_use blanks and
unblanks the spindles of a commissioned part, a disabled carriage keeps no open offer, a changed speed of the step in force
sends SPEED_CAP, and a commissioned part refuses speed steps that fall and shifts that do not rise (R1, R4, R24, R37, R66,
R71, R147, R166, R167, R180, R200, R207). A write that changes a carriage's zone or enabled field withdraws the window of a
carriage it disables, a JOB_CANCEL going to the carriage for each record; it moves the carriage's QUEUED records that it no
longer serves to the other carriage, if that serves them, or makes them unserved, and assigns every unserved record afresh;
every other record stays, and each may then be offered (R69, R71, R75 to R77). That blanking takes the two recorded flags of
the spindle to NO is the model's (log entry 18), and so is that a run of no entries at an index of the table is answered OK
(log entry 22), that several records are taken in rising record number (log entry 19), and that a write that leaves zone and
enabled field as they were makes the offer tests too (log entry 37). -/
def Obligations.RunsOfEntriesAreWritten : Prop :=
  ∀ (f : LineFrame) (rest : List LineFrame) (s : State), Ready f rest s → f.kind = 0x40 → SizesHold s →
    (∀ b (l : List SectionEntry), 1 ≤ b → b ≤ 72 → b + l.length ≤ 73 →
      f.payload = 1 :: (be 2 b ++ l.flatMap fun e => b1 (yesNo e.enabled) ++ b1 e.mode.code) →
      Executes .sectionTableWrite f rest s [0, 0] [.sectionTable] fun t =>
        ∀ x, 1 ≤ x → x ≤ 72 → ((sectionAt x t).enabled, (sectionAt x t).mode)
          = match (if b ≤ x then l[x - b]? else none) with
            | some e => (e.enabled, e.mode)
            | none => ((sectionAt x s).enabled, (sectionAt x s).mode))
    ∧ (∀ n (l : List SpindleEntry), 1 ≤ n → n ≤ 1728 → n + l.length ≤ 1729 → s.part = .unconfigured →
      f.payload = 2 :: (be 2 n ++ l.flatMap fun e => b1 (yesNo e.inUse) ++ b1 (yesNo e.clampFitted)) →
      Executes .spindleTableWrite f rest s [0, 0] [.spindleTable] fun t =>
        ∀ x, 1 ≤ x → x ≤ 1728 → ((spindle x t).inUse, (spindle x t).clampFitted)
          = match (if n ≤ x then l[x - n]? else none) with
            | some e => (e.inUse, e.clampFitted)
            | none => ((spindle x s).inUse, (spindle x s).clampFitted))
    ∧ (∀ n r (e : SpindleEntry), Alone r n s → s.part = .commissioned →
      f.payload = 2 :: (be 2 n ++ b1 (yesNo e.inUse) ++ b1 (yesNo e.clampFitted)) →
      Executes .spindleTableWrite f rest s [0, 0] (.spindleTable :: .flags :: closings) fun t =>
        (spindle n t).inUse = e.inUse ∧ (spindle n t).clampFitted = e.clampFitted
          ∧ (e.inUse = true → (spindle n s).state = .blanked →
              (spindle n t).state = .idle ∧ Kept (.spindleTable :: .spindleStates :: (callings ++ answers)) s t)
          ∧ (e.inUse = false → (spindle n s).state ≠ .blanked →
              (spindle n t).state = .blanked ∧ (spindle n t).rovingAbsent = false ∧ (spindle n t).clampClosed = false
                ∧ (spindle n t).roving = (spindle n s).roving
                ∧ (∀ q p, recordAt q t = some (.piece p) → p.spindle ≠ n ∨ (spindle n s).state.openBreak = false)
                ∧ t.pcu.frame.closures = (if (spindle n s).state.openBreak = true then
                      { s.pcu.frame.closures with blank := min 65535 (s.pcu.frame.closures.blank + 1) }
                    else s.pcu.frame.closures)
                ∧ ((spindle n s).state.openBreak = true → 65535 ≤ s.pcu.frame.closures.blank → Saturated s t))
          ∧ (e.inUse = decide ((spindle n s).state ≠ .blanked) → Kept (.spindleTable :: answers) s t))
    ∧ (∀ (c : Carriage) (e : CarriageEntry), legalCarriage e →
      f.payload = 3 :: 0 :: (if c = .pc1 then 1 else 2) :: carriageEntryBytes e →
      Executes .carriageTableWrite f rest s [0, 0] (.carriageTables :: offers) fun t =>
        carriageTable (carriage c t) = (some e.zone, e.acceptTimeout, e.resultTimeout, e.maxAttempts, e.enabled)
          ∧ carriageTable (carriage c.other t) = carriageTable (carriage c.other s)
          ∧ (s.part = .unconfigured → Kept (.carriageTables :: answers) s t)
          ∧ (s.part = .commissioned → (carriage c s).enabled = true → e.enabled = false →
              (∀ q p, recordAt q t = some (.piece p) → p.carriage = c → p.phase.inWindow = false)
              ∧ (∀ r p, recordAt r s = some (.piece p) → p.carriage = c → p.phase.inWindow = true → 1 ≤ p.spindle →
                  p.spindle ≤ 1728 →
                  (spindle p.spindle t).state = .broken 0 ∨ (spindle p.spindle t).state = .offered 0)
              ∧ ((s.slc.tx.get c.agent).length + (openOffers c s).length ≤ 4 →
                  outgoing c.agent t = outgoing c.agent s ++ openOffers c s))
          ∧ (s.part = .commissioned → (carriage c s).zone = some e.zone → (carriage c s).enabled = e.enabled →
              ∀ r p, recordAt r s = some (.piece p) → Stands p r t)
          ∧ (s.part = .commissioned → (carriage c s).zone ≠ some e.zone ∨ (carriage c s).enabled ≠ e.enabled →
              ∀ r p, recordAt r s = some (.piece p) →
                Stands (afterZone c ((carriage c s).enabled && !e.enabled) p t) r t))
    ∧ (∀ i (e : StopAction), legalStopAction e → i < 8 → f.payload = 8 :: (be 2 i ++ stopActionBytes e) →
      Executes .stopActionTableWrite f rest s [0, 0] (.stops :: offers) fun t =>
        t.dfs.stops = s.dfs.stops.set i e ∧ (s.dfs.stop = none → Kept (.stops :: answers) s t))
    ∧ (∀ i (l : List Nat), i < 8 → i + l.length ≤ 8 → (∀ v ∈ l, v ≤ 30000) →
      f.payload = 10 :: (be 2 i ++ l.flatMap (be 2)) →
      let steps := s.sgv.steps.take i ++ l ++ s.sgv.steps.drop (i + l.length)
      let cap := effectiveCap s
      (s.part = .unconfigured →
        Executes .speedStepTableWrite f rest s [0, 0] [.steps] fun t => t.sgv.steps = steps)
      ∧ (s.part = .commissioned → steps.Pairwise (fun x y => x ≤ y) →
        Executes .speedStepTableWrite f rest s [0, 0] (.steps :: capSends) fun t => t.sgv.steps = steps
          ∧ (stepSpeed cap t = stepSpeed cap s → Kept (.steps :: answers) s t)
          ∧ (stepSpeed cap t ≠ stepSpeed cap s →
              Driven (.speedCap cap (stepSpeed cap t)) s t ∧ t.sgv.lastSent = cap ∧ t.sgv.sinceSent = 0))
      ∧ (s.part = .commissioned → ¬ steps.Pairwise (fun x y => x ≤ y) →
        Executes .speedStepTableWrite f rest s [4, 0] [] fun _ => True))
    ∧ (∀ i (l : List (Option Nat)), 1 ≤ i → i ≤ 4 → i + l.length ≤ 5 → (∀ v, some v ∈ l → v ≤ 86399) →
      f.payload = 11 :: (be 2 i ++ l.flatMap shiftBytes) →
      let shifts := s.scs.shifts.take (i - 1) ++ l ++ s.scs.shifts.drop (i - 1 + l.length)
      (s.part = .unconfigured ∨ RisingRun shifts →
        Executes .shiftTableWrite f rest s [0, 0] [.shifts] fun t => t.scs.shifts = shifts)
      ∧ (s.part = .commissioned → ¬ RisingRun shifts →
        Executes .shiftTableWrite f rest s [4, 0] [] fun _ => True))
    ∧ (∀ l : List LampItem, l.length ≤ 4 →
      ((∀ x ∈ l, legalItem .brk x) → f.payload = 15 :: 0 :: 0 :: lampItemsBytes l →
        Executes .lampTableWrite f rest s [0, 0] [.lampTable] fun t =>
          t.mfh.lampTable = { s.mfh.lampTable with brk := l })
      ∧ ((∀ x ∈ l, legalItem .roving x) → f.payload = 15 :: 0 :: 1 :: lampItemsBytes l →
        Executes .lampTableWrite f rest s [0, 0] [.lampTable] fun t =>
          t.mfh.lampTable = { s.mfh.lampTable with roving := l })
      ∧ ((∀ x ∈ l, legalItem .doff x) → f.payload = 15 :: 0 :: 2 :: lampItemsBytes l →
        Executes .lampTableWrite f rest s [0, 0] [.lampTable] fun t =>
          t.mfh.lampTable = { s.mfh.lampTable with doff := l }))
    ∧ (∀ x y : Blink, legalBlink x → legalBlink y →
      f.payload = 15 :: 0 :: 3 :: (b1 x.on ++ b1 x.off ++ b1 y.on ++ b1 y.off ++ be 13 0) →
      Executes .lampTableWrite f rest s [0, 0] [.lampTable] fun t =>
        t.mfh.lampTable = { s.mfh.lampTable with blink1 := x, blink2 := y })

/-- A TABLE_WRITE is refused whole and changes nothing: BAD_TABLE for an id that names no table, BAD_INDEX for a start index
outside the table or a run past its last entry, and BAD_VALUE for a payload too short, a run that is no whole number of
entries, or one with an entry that holds a field outside its range or breaks a test between fields (R200, R212; the ranges of
R1, R4, R7, R38, R59, R66, R93, R111, R132, R147, R162, R166, R180 and R207). That the index is tested before the run's length
is the model's (log entry 22), and so are the row of a payload too short, which an empty one has as TABLE_WRITE, and its answer
(log entry 25). -/
def Obligations.RefusedWritesChangeNothing : Prop :=
  ∀ (f : LineFrame) (rest : List LineFrame) (s : State), Ready f rest s → f.kind = 0x40 →
    let run := f.payload.drop 3
    let start := fieldAt f.payload 1 2
    let refused := fun code => Executes (tableRow f.payload) f rest s [code, 0] [] fun _ => True
    (f.payload.length < 3 → refused 4)
    ∧ (3 ≤ f.payload.length → (byteAt f.payload 0 = 0 ∨ 15 < byteAt f.payload 0) →
        tableRow f.payload = .tableWrite ∧ refused 2)
    ∧ ∀ x : Table, byteAt f.payload 0 = x.id → 3 ≤ f.payload.length →
      (start < x.base ∨ x.limit ≤ start ∨ x.limit < start + run.length / x.size → refused 3)
      ∧ (x.base ≤ start → start < x.limit → start + run.length / x.size ≤ x.limit →
        (run.length % x.size ≠ 0 → refused 4)
        ∧ (∀ k, k < run.length / x.size → entryRefused x (start + k) ((run.drop (k * x.size)).take x.size) →
            refused 4))

/-! ## Reads -/

/-- The reads answer from the state as it stands and change nothing but the count of free values: TABLE_READ with as many
whole entries as fit, the selectors of COUNTS_READ and STATUS_READ with their items from the start item on; STATUS_READ with
the clear option and start item 0 then clears the port counters and every latched flag whose live flag is clear, and with any
other start item the option is ignored. A table id that names none is BAD_TABLE; a start index outside its table, a start item
beyond the last, a shift that is not one of four and a range that falls or leaves 1 to 1,728 are BAD_INDEX; a selector, class or
option that names nothing and a payload cut short are BAD_VALUE (R47, R62, R129, R185, R200, R201, R212). The bytes the spec
leaves open are the model's: the end marks and the table read past its end (log entry 23), the fields of absent things (log
entry 12), free bytes and the fields of a refusal (log entry 11), the 0 that a lamp item not QUEUED reads as its N (log entry
24), the bits of the ROVING and STATUS reads (log entries 26, 46 and 47), and the row that a short read belongs to (log entry
25). -/
def Obligations.ReadsAnswerFromTheState : Prop :=
  ∀ (f : LineFrame) (rest : List LineFrame) (s : State) (x y start : Nat), Ready f rest s →
    x < 65536 → y < 65536 → start < 65536 →
    let counts := fun selector : Byte => f.kind = 0x43 ∧ f.payload = selector :: (be 2 x ++ be 2 y ++ be 2 start)
    let range := fun item : Nat → List Byte => (List.range (y - x + 1)).map fun i => item (x + i)
    let reads := fun row payload => Executes row f rest s payload [.freeCount] fun _ => True
    let refused := fun (row : Instr) (code selector : Byte) =>
      ∃ next, next.length = 2 ∧ reads row (code :: selector :: next)
    let selectors : List (Byte × Instr) :=
      [(0, .frameLive), (1, .spindleLive), (2, .spindlePrev), (3, .history), (4, .roving), (5, .records)]
    (∀ table : Table, f.kind = 0x41 → f.payload = BitVec.ofNat 8 table.id :: (be 2 start ++ be 2 y) →
      table.base ≤ start → start < table.limit →
      let n := min y (min (table.limit - start) (55 / table.size))
      reads .tableRead (0 :: BitVec.ofNat 8 table.id :: BitVec.ofNat 8 (table.mark s) ::
        ((if table.limit ≤ start + n then [0xFF, 0xFF] else be 2 (start + n))
          ++ (List.range n).flatMap fun i => table.entry (start + i) s)))
    ∧ (∀ (id : Byte) (more : List Byte), f.kind = 0x41 → f.payload = id :: more →
        (more.length < 4 → ∃ mark next, next.length = 2 ∧ reads .tableRead (4 :: id :: mark :: next))
        ∧ (4 ≤ more.length →
          (id = 0 ∨ 15 < id.toNat → ∃ next, next.length = 2 ∧ reads .tableRead (2 :: id :: 0 :: next))
          ∧ (∀ table : Table, id.toNat = table.id →
              fieldAt f.payload 1 2 < table.base ∨ table.limit ≤ fieldAt f.payload 1 2 →
              ∃ next, next.length = 2 ∧ reads .tableRead (3 :: id :: BitVec.ofNat 8 (table.mark s) :: next))))
    ∧ (∀ (selector : Byte) (row : Instr) (more : List Byte), (selector, row) ∈ selectors → f.kind = 0x43 →
        f.payload = selector :: more → more.length < 6 → refused row 4 selector)
    ∧ (counts 0 → 3 ≤ start → refused .frameLive 3 0)
    ∧ (y < x ∨ x < 1 ∨ 1728 < y ∨ y - x < start →
        (counts 1 → refused .spindleLive 3 1) ∧ (counts 2 → refused .spindlePrev 3 2) ∧ (counts 4 → refused .roving 3 4))
    ∧ (counts 3 → x < 1 ∨ 4 < x ∨ 4 ≤ start → refused .history 3 3)
    ∧ (∀ c, counts 5 → RecordClass.ofCode? x = some c →
        (poolItem s :: classRecords c 0 s.pool.records).length ≤ start → refused .records 3 5)
    ∧ (f.kind = 0x44 → f.payload.length < 3 → refused .statusRead 4 255)
    ∧ (∀ option : Byte, f.kind = 0x44 → f.payload = option :: be 2 start →
        (1 < option.toNat → start = 0 → refused .statusRead 4 255)
        ∧ (5 ≤ start → refused .statusRead 3 255)
        ∧ (option = 0 ∨ start ≠ 0 → start < 5 → reads .statusRead (itemsAnswer 255 start (statusGroups s))))
    ∧ (counts 0 → start < 3 →
        reads .frameLive (itemsAnswer 0 start (countGroups s.pcu.frame (convert s.pcu.inForce s.pcu.frame))))
    ∧ (1 ≤ x → x ≤ y → y ≤ 1728 → start ≤ y - x →
        (counts 1 → reads .spindleLive (itemsAnswer 1 start (range (spindleLiveItem s))))
        ∧ (counts 2 → reads .spindlePrev (itemsAnswer 2 start (range (spindlePrevItem s))))
        ∧ (counts 4 → reads .roving (itemsAnswer 4 start (range (rovingItemLed s x y)))))
    ∧ (counts 3 → 1 ≤ x → x ≤ 4 → start < 4 →
        reads .history (itemsAnswer 3 start (historyGroups (s.scs.history[x - 1]?))))
    ∧ (∀ c, counts 5 → RecordClass.ofCode? x = some c →
        start < (poolItem s :: classRecords c 0 s.pool.records).length →
        reads .records (itemsAnswer 5 start (poolItem s :: classRecords c 0 s.pool.records)))
    ∧ (f.kind = 0x44 → f.payload = [1, 0, 0] →
        Executes .statusReadClear f rest s (itemsAnswer 255 0 (statusGroups s))
          (.freeCount :: .linkErrors :: .serviceErrors :: .drops :: .millErrors :: conditions) fun t =>
            (t.fli.rxError, t.fli.unknownSection, t.fli.forwardDrop, t.fli.passBusy, t.fli.commandDrop) = (0, 0, 0, 0, 0)
            ∧ (t.slc.rxError, t.slc.rxOverflow, t.slc.clash) = (0, 0, 0) ∧ (∀ a : Agent, t.slc.txDrop.get a = 0)
            ∧ (t.mfh.rxError, t.mfh.rxOverflow) = (0, 0) ∧ t.mfh.live = s.mfh.live
            ∧ ∀ c : Cond, t.mfh.latched.get c = (s.mfh.latched.get c && s.mfh.live.get c))
    ∧ (∀ selector more, f.kind = 0x43 → f.payload = selector :: more →
        5 < selector.toNat ∨ (selector = 5 ∧ counts 5 ∧ 3 < x) →
        ∃ next, next.length = 2 ∧ reads .selectorNamingNone (4 :: selector :: next))

/-! ## Commands of the supervisor -/

/-- COMMISSION of an UNCONFIGURED part whose tables pass brings the staged process table into force, makes the sections LIVE
and the spindles IDLE or BLANKED with a full creel, starts the doff sequencer and the governor, opens a shift, clears the live
flag COUNTER_SATURATED and makes the part COMMISSIONED; a table that fails is named, a commissioned part refuses, and an
initial build above 50,000 m is BAD_VALUE (R26, R37, R43, R49, R110, R159, R170, R171, R186, R208). That the value is tested
before the part state is the model's (log entry 21). -/
def Obligations.CommissionStartsThePart : Prop :=
  ∀ (f : LineFrame) (rest : List LineFrame) (metres : Nat) (s : State), Ready f rest s → f.kind = 0x42 →
    metres < 65536 → (f.payload = 0 :: be 2 metres ∨ f.payload = [0] ∧ metres = 0) →
    let refused := fun code detail => Executes .commission f rest s [code, detail] [] fun _ => True
    (50000 < metres → refused 4 0)
    ∧ (metres ≤ 50000 → s.part = .commissioned → refused 6 0)
    ∧ (metres ≤ 50000 → s.part = .unconfigured →
        (s.pds.pc1.zone = none ∨ s.pds.pc2.zone = none → refused 6 3)
        ∧ (s.pds.pc1.zone ≠ none → s.pds.pc2.zone ≠ none →
          (¬ RisingRun s.scs.shifts → refused 6 11)
          ∧ (RisingRun s.scs.shifts →
            (s.pcu.staged = none → s.pcu.inForce = none → refused 6 4)
            ∧ ((s.pcu.staged ≠ none ∨ s.pcu.inForce ≠ none) → ¬ s.sgv.steps.Pairwise (fun x y => x ≤ y) → refused 6 10)
            ∧ ∀ p : InForce, s.sgv.steps.Pairwise (fun x y => x ≤ y) →
              (s.pcu.staged.map ProcessTable.inForce = some p ∨ s.pcu.staged = none ∧ s.pcu.inForce = some p) →
              let pulses := min 4294967295 (metres * 10 ^ 12 / (p.table.pulseLength * (1000 - p.table.contraction)))
              Executes .commission f rest s [0, 0]
                (.part :: .watches :: .spindleStates :: .flags :: .liveCounts :: .builds :: .sinceDoff :: .roving
                  :: .latest :: .production :: .breakCounts :: .doffCounts :: .baysDone :: .inForce :: .staged :: .doff
                  :: .build :: .stop :: .grace :: .parkTimer :: .doffTimer :: .parkingMarks :: .progress :: .requests
                  :: .wanting :: .window :: .openSlot :: .slotTimer :: .lastRate :: .governor :: .openShift :: .locked
                  :: .cond .driveCapMismatch :: .cond .doffFault :: .cond .unlistedPresent :: (sends ++ capSends)) fun t =>
                t.part = .commissioned ∧ t.pcu.inForce = some p ∧ t.pcu.staged = none
                ∧ (∀ e ∈ t.sections, e.watch = some { silent := false, age := 0, kept := none })
                ∧ t.spindles = s.spindles.map (fun e =>
                    { e with state := if e.inUse then .idle else .blanked, rovingAbsent := false, clampClosed := false,
                             live := { pulses := 0, breaks := 0, slip := 0 }, build := if e.inUse then pulses else 0,
                             sinceDoff := 0, roving := some { remaining := p.budget, mark := .full } })
                ∧ t.pcu.latest = { speed := 0, run := .stopped, stopCode := 0 }
                ∧ productionOf t.pcu.frame = List.replicate 10 0 ∧ t.pcu.frame.openedRun = 0
                ∧ t.pcu.frame.openedStartup = 0 ∧ t.pcu.frame.carriedIn = 0 ∧ t.pcu.frame.closures = Closures.zero
                ∧ t.pcu.frame.doffs = 0
                ∧ t.dfs.doff = some .building ∧ t.dfs.build = pulses ∧ t.dfs.stop = none ∧ t.dfs.grace = none
                ∧ t.dfs.parkTimer = none ∧ t.dfs.doffTimer = none ∧ t.dfs.progress = 0
                ∧ t.rvm.requests = [] ∧ (∀ w ∈ t.rvm.wanting, w = false)
                ∧ t.sgv.closed = [] ∧ t.sgv.opened = { breaks := 0, exposure := 0 } ∧ t.sgv.governor = .normal
                ∧ t.sgv.slotTimer = some s.sgv.table.slotLen ∧ t.sgv.lastRate = none
                ∧ t.sgv.lastSent = min 7 s.sgv.supervisorCap ∧ t.sgv.sinceSent = 0 ∧ t.sgv.mismatch = 0
                ∧ (s.sgv.lastSent = min 7 s.sgv.supervisorCap → DriveQueued .restartPermit s t)
                ∧ (4 ≤ s.fli.drive.length → 65535 ≤ s.fli.commandDrop → s.mfh.live.counterSaturated = false →
                    t.mfh.latched.counterSaturated = true)
                ∧ (∀ c : Carriage, present c.agent s = true → (s.slc.tx.get c.agent).length < 4 →
                    outgoing c.agent t = outgoing c.agent s ++ [.release])
                ∧ t.scs.openShift = some (stampNow s) ∧ t.mfh.lockedThisShift = false
                ∧ t.mfh.live.driveCapMismatch = false ∧ t.mfh.live.doffFault = false
                ∧ t.mfh.live.unlistedPresent = false ∧ t.mfh.live.counterSaturated = false)))

/-- DECOMMISSION files the open shift, closes every open break and bay request and frees their records, empties the queues,
discards the job state and leaves the part UNCONFIGURED with no latched flag but those whose live flag is set, and with the
live flag COUNTER_SATURATED clear; the tables, the clock, the notices on their way and the mill-link queue are kept (R26, R37,
R49, R109, R130, R159, R170, R183, R186, R197, R206, R209, R211). That a build counter of none is held as 0 is the model's
(log entry 38). -/
def Obligations.DecommissionClosesTheJob : Prop :=
  ∀ (f : LineFrame) (rest : List LineFrame) (more : List Byte) (s : State), Ready f rest s → f.kind = 0x42 →
    f.payload = 1 :: more →
    (s.part = .unconfigured → Executes .decommission f rest s [9, 0] [] fun _ => True)
    ∧ (s.part = .commissioned → Executes .decommission f rest s [0, 0]
        (.part :: .watches :: .spindleStates :: .flags :: .liveCounts :: .prevCounts :: .builds :: .sinceDoff :: .roving
          :: .latest :: .production :: .breakCounts :: .doffCounts :: .baysDone :: .jobs :: .requests :: .wanting
          :: .serviceRx :: .serviceTx :: .pass :: .drive :: .doff :: .build :: .stop :: .grace :: .parkTimer :: .doffTimer
          :: .parkingMarks :: .progress :: .window :: .openSlot :: .slotTimer :: .lastRate :: .governor :: .capSent
          :: .openShift :: .history :: .locked :: (conditions ++ reports)) fun t =>
        t.part = .unconfigured ∧ Filed s.scs.day 0 .decommission (stampNow s) s t ∧ t.scs.openShift = none
        ∧ NoticesStand s t
        ∧ (noticeEnabled .shiftClosed s = true → canGrant .notice s = true → none ∈ s.pool.records →
            Raised .shiftClosed [(s.scs.day : Int), 0, 2, (openBreaks s : Int)] s t)
        ∧ t.pcu.frame.carriedIn = openBreaks s
        ∧ t.pcu.frame.closures = { Closures.zero with decommission := min 65535 (openBreaks s) }
        ∧ (∀ e ∈ t.spindles, e.state = .blanked ∧ e.rovingAbsent = false ∧ e.clampClosed = false ∧ e.build = 0
            ∧ e.sinceDoff = 0 ∧ e.roving = none ∧ e.live = { pulses := 0, breaks := 0, slip := 0 })
        ∧ t.spindles.map Spindle.prev = s.spindles.map Spindle.live
        ∧ (∀ e ∈ t.sections, e.watch = none)
        ∧ (∀ q j, recordAt q t = some j → ∃ n, j = .notice n)
        ∧ t.rvm.requests = [] ∧ (∀ w ∈ t.rvm.wanting, w = false)
        ∧ t.slc.rx = [] ∧ (∀ a : Agent, t.slc.tx.get a = []) ∧ t.fli.forward = [] ∧ t.fli.pass = [] ∧ t.fli.drive = []
        ∧ t.dfs.doff = none ∧ t.dfs.stop = none ∧ t.dfs.grace = none ∧ t.dfs.parkTimer = none ∧ t.dfs.doffTimer = none
        ∧ t.dfs.progress = 0 ∧ t.dfs.build = 0 ∧ (t.dfs.stopSeen, t.dfs.parked1, t.dfs.parked2) = (none, none, none)
        ∧ t.sgv.closed = [] ∧ t.sgv.opened = { breaks := 0, exposure := 0 }
        ∧ t.sgv.slotTimer = none ∧ t.sgv.lastRate = none ∧ t.sgv.governor = .normal
        ∧ t.sgv.lastSent = s.sgv.lastSent ∧ t.sgv.sinceSent = 0 ∧ t.sgv.mismatch = 0
        ∧ t.pcu.latest = { speed := 0, run := .stopped, stopCode := 0 }
        ∧ t.mfh.lockedThisShift = false ∧ (∀ l : Lamp, lampOutput l t = false)
        ∧ (∀ c : Cond, t.mfh.latched.get c = true → t.mfh.live.get c = true)
        ∧ t.mfh.live.unlistedPresent = false ∧ t.mfh.live.doffFault = false ∧ t.mfh.live.driveCapMismatch = false
        ∧ t.mfh.live.counterSaturated = false)

/-- RESTART, but in DOFFING where it is BUSY, closes every open break RESTART and every bay request standing, frees their
records, makes every spindle IDLE that is not LOCKED or BLANKED and every section LIVE, and returns the doff to BUILDING
unless it stands faulted. The frames and commands queued before are gone: for each carriage there is, behind a frame already
in transmission, RELEASE if it is PRESENT, again after a called doff, and PARK_CALL while it is held by a fault or by a stop
with park mark YES; for the transport BAY_WITHDRAW of the request in service, and fresh offers; for the drive RESTART_PERMIT
after a called doff, and SPEED_CAP. The positions that stand EMPTY or OVERRUN are gathered into fresh requests at once. The
shift, the builds, the notices on their way, the flag COUNTER_SATURATED and every table run on (R26, R37, R49, R89, R109,
R118, R130, R158, R170, R171, R197, R206, R210). -/
def Obligations.RestartClearsTheWork : Prop :=
  ∀ (f : LineFrame) (rest : List LineFrame) (more : List Byte) (s : State), Ready f rest s → f.kind = 0x42 →
    f.payload = 2 :: more →
    (s.part = .unconfigured → Executes .restart f rest s [9, 0] [] fun _ => True)
    ∧ (s.part = .commissioned → s.dfs.doff = some .doffing → Executes .restart f rest s [5, 0] [] fun _ => True)
    ∧ (s.part = .commissioned → s.dfs.doff ≠ some .doffing → Executes .restart f rest s [0, 0]
        (.watches :: .spindleStates :: .breakCounts :: .jobs :: .requests :: .wanting :: .serviceRx :: .pass :: .doff
          :: .grace :: .parkTimer :: .doffTimer :: .parkingMarks :: .window :: .openSlot :: .slotTimer :: .lastRate
          :: .governor :: (sends ++ conditions ++ capSends)) fun t =>
        t.spindles.map Spindle.state = s.spindles.map (fun e =>
          if e.state = .locked ∨ e.state = .blanked then e.state else .idle)
        ∧ t.pcu.frame.closures
            = { s.pcu.frame.closures with restart := min 65535 (s.pcu.frame.closures.restart + openBreaks s) }
        ∧ (65535 < s.pcu.frame.closures.restart + openBreaks s → Saturated s t)
        ∧ (s.mfh.live.counterSaturated = true → t.mfh.live.counterSaturated = true)
        ∧ t.pcu.frame.openedRun = s.pcu.frame.openedRun ∧ t.pcu.frame.openedStartup = s.pcu.frame.openedStartup
        ∧ t.pcu.frame.carriedIn = s.pcu.frame.carriedIn
        ∧ NoPieces t ∧ (∀ q h, recordAt q t ≠ some (.hold h))
        ∧ (∀ e ∈ t.sections, e.watch = some { silent := false, age := 0, kept := none })
        ∧ t.slc.rx = [] ∧ t.fli.forward = [] ∧ t.fli.pass = []
        ∧ NoticesStand s t
        ∧ (∀ r q, recordAt r t = some (.bay q) → r ∈ t.rvm.requests ∧ FreshRequest q s)
        ∧ (1 ≤ s.rvm.marks.batchCount →
            (∀ n e, (spindle n s).state ≠ .blanked → (spindle n s).roving = some e → e.mark = .full) →
            t.rvm.requests = [] ∧ ∀ r q, recordAt r t ≠ some (.bay q))
        ∧ (SizesHold s → ∀ n e, 1 ≤ n → (spindle n s).state ≠ .blanked → (spindle n s).roving = some e →
            e.mark = .empty ∨ e.mark = .overrun →
            (∃ r q, requestOf (sectionOf n) t = some (r, q) ∧ n ∈ q.positions) ∨ wanting (sectionOf n) t = true)
        ∧ (∀ c : Carriage, outgoing c.agent t = onAir c.agent s ++
            (if present c.agent s = true then
              [.release] ++ (if s.dfs.doff = some .called then [.release] else [])
                ++ (if heldStill s = true then [.parkCall] else [])
            else []))
        ∧ outgoing .ad t = onAir .ad s
        ∧ (∃ offered, (∀ m ∈ offered, ∃ b u run l, m = .bayOffer b u run l)
            ∧ outgoing .rt t = onAir .rt s ++ (match (requestList s).find? fun x => x.2.phase.inService with
                | some (_, q) => [.bayWithdraw q.bay]
                | none => []) ++ offered)
        ∧ driveLine t = goingDown s ++ (if s.dfs.doff = some .called then [.restartPermit] else [])
            ++ (if min 7 s.sgv.supervisorCap = s.sgv.lastSent then []
              else [.speedCap (min 7 s.sgv.supervisorCap) (stepSpeed (min 7 s.sgv.supervisorCap) s)])
        ∧ (∀ d, s.dfs.doff = some d → t.dfs.doff = some (if d.code = 5 then d else .building))
        ∧ (s.dfs.doff = some .called → .restartPermit ∈ driveLine t)
        ∧ t.dfs.grace = none ∧ t.dfs.parkTimer = none ∧ t.dfs.stopSeen = none ∧ t.dfs.parked1 = none
        ∧ t.dfs.parked2 = none
        ∧ (∀ c : Carriage, present c.agent s = true → .release ∈ outgoing c.agent t
            ∧ ((∃ cause, s.dfs.doff = some (.fault cause)) → .parkCall ∈ outgoing c.agent t))
        ∧ (∀ r q, ((requestList s).find? fun x => x.2.phase.inService) = some (r, q) →
            .bayWithdraw q.bay ∈ outgoing .rt t)
        ∧ t.sgv.closed = [] ∧ t.sgv.governor = .normal ∧ t.sgv.lastRate = none
        ∧ t.sgv.slotTimer = some s.sgv.table.slotLen ∧ t.sgv.lastSent = min 7 s.sgv.supervisorCap
        ∧ t.sgv.sinceSent = 0 ∧ t.sgv.mismatch = 0
        ∧ (∀ c : Cond, t.mfh.latched.get c = true → t.mfh.live.get c = true))

/-- DOFF_NOW calls the doff from BUILDING or PRE_DOFF and is BUSY in every other doff state. From a fault of cause DOFFER or
TIMEOUT, DOFF_CLEAR RESUME sends DOFF_START and returns to DOFFING with a fresh doff timer and nothing of the entry
repeated, and MANUAL_DONE completes the doff as DOFF_DONE would; from one of cause PARK, CANCEL abandons it. Any other option
or state is answered and changes nothing (R136, R137, R143, R154 to R157). What answers an option that names nothing in each
part and doff state is the model's (log entry 21), and so is that the RELEASE of CANCEL goes before the JOB_OFFER frames that the
permission then brings (log entry 51). -/
def Obligations.DoffCommandsMoveTheDoff : Prop :=
  ∀ (f : LineFrame) (rest : List LineFrame) (more : List Byte) (s : State), Ready f rest s → f.kind = 0x42 →
    let answered := fun row code => Executes row f rest s [code, 0] [] fun _ => True
    let option := fun o : Byte => f.payload = 4 :: o :: more
    let entered := s.dfs.doff = some (.fault .doffer) ∨ s.dfs.doff = some (.fault .timeout)
    let faulted := ∃ cause, s.dfs.doff = some (.fault cause)
    (f.payload = 3 :: more →
      (s.part = .unconfigured → answered .doffNow 9)
      ∧ (s.part = .commissioned → s.dfs.doff ≠ some .building → s.dfs.doff ≠ some .preDoff → answered .doffNow 5)
      ∧ (s.part = .commissioned → s.dfs.doff = some .building ∨ s.dfs.doff = some .preDoff →
        Executes .doffNow f rest s [0, 0] doffCalls fun t =>
          t.dfs.doff = some .called ∧ Driven .doffStop s t ∧ t.dfs.stopSeen = some false
          ∧ t.dfs.parked1 = (if present .pc1 s then some false else none)
          ∧ t.dfs.parked2 = (if present .pc2 s then some false else none)
          ∧ t.dfs.parkTimer = some s.dfs.timers.parkTimeout
          ∧ t.dfs.stop = s.dfs.stop.map (fun x => { x with doffOwned := true, parkMark := false })
          ∧ ∀ c : Carriage, present c.agent s = true → (s.slc.tx.get c.agent).length < 4 →
              outgoing c.agent t = outgoing c.agent s ++ [.parkCall]))
    ∧ (s.part = .unconfigured → (option 0 → answered .doffClearResume 9) ∧ (option 1 → answered .doffClearManualDone 9)
        ∧ (option 2 → answered .doffClearCancel 9)
        ∧ ∀ o : Byte, 2 < o.toNat → option o → answered .doffClearOptionNamingNone 9)
    ∧ (s.part = .commissioned →
        (¬ entered → (option 0 → answered .doffClearResume 6) ∧ (option 1 → answered .doffClearManualDone 6))
        ∧ (s.dfs.doff ≠ some (.fault .park) → option 2 → answered .doffClearCancel 6)
        ∧ (∀ o : Byte, 2 < o.toNat → option o → (faulted → answered .doffClearOptionNamingNone 4)
            ∧ (¬ faulted → answered .doffClearOptionNamingNone 6))
        ∧ (entered → option 0 → Executes .doffClearResume f rest s [0, 0] (.parkingMarks :: .doffTimer :: (sends ++ doffMoves))
            fun t => t.dfs.doff = some .doffing ∧ t.dfs.doffTimer = some s.dfs.timers.doffTimeout ∧ Placed .ad .doffStart s t)
        ∧ (entered → option 1 → Executes .doffClearManualDone f rest s [0, 0]
            (.parkingMarks :: .build :: .doffCounts :: .grace :: (sends ++ drives ++ doffMoves)) fun t =>
              t.dfs.doff = some .restarting ∧ t.dfs.build = 0
              ∧ t.pcu.frame.doffs = min 65535 (s.pcu.frame.doffs + 1) ∧ (65535 ≤ s.pcu.frame.doffs → Saturated s t)
              ∧ t.pcu.frame.fullCops = s.pcu.frame.fullCops ∧ t.pcu.frame.partialCops = s.pcu.frame.partialCops
              ∧ Driven .restartPermit s t ∧ t.dfs.grace = some (s.dfs.timers.grace * 1000)
              ∧ ∀ c : Carriage, present c.agent s = true → (s.slc.tx.get c.agent).length < 4 →
                  outgoing c.agent t = outgoing c.agent s ++ [.release])
        ∧ (s.dfs.doff = some (.fault .park) → option 2 → Executes .doffClearCancel f rest s [0, 0]
            (.parkingMarks :: (drives ++ doffMoves ++ offers)) fun t =>
              t.dfs.doff = some .building ∧ t.mfh.live.doffFault = false ∧ Driven .restartPermit s t
              ∧ t.dfs.stopSeen = none ∧ t.dfs.parked1 = none ∧ t.dfs.parked2 = none
              ∧ ∀ c : Carriage, present c.agent s = true → (s.slc.tx.get c.agent).length < 4 →
                  ∃ offered, outgoing c.agent t = outgoing c.agent s ++ .release :: offered))

/-- UNLOCK frees one LOCKED spindle or all of them, SPEED_LIMIT sets the supervisor cap and sends SPEED_CAP when the effective
cap of a commissioned part moves, APPLY_PARTITION brings a staged partition that fits into force and makes a pass of the
UNLISTED sweep, in ascending order of the spindles, and SHIFT_CLOSE closes the open shift with reason COMMAND and index 0 and
clears the live flag COUNTER_SATURATED; each answers what it cannot take (R25, R37, R48, R57, R60, R165, R167, R182, R183,
R202). That an UNCONFIGURED part answers UNLOCK before it looks at the spindle number is the model's (log entry 21). -/
def Obligations.SupervisorCommandsAct : Prop :=
  ∀ (f : LineFrame) (rest : List LineFrame) (s : State), Ready f rest s → f.kind = 0x42 →
    let answered := fun row code => Executes row f rest s [code, 0] [] fun _ => True
    (∀ n, n < 65536 → f.payload = 5 :: be 2 n →
      (s.part = .unconfigured → answered .unlock 9)
      ∧ (s.part = .commissioned →
        (1728 < n → answered .unlock 3)
        ∧ (1 ≤ n → n ≤ 1728 → (spindle n s).state ≠ .locked → answered .unlock 6)
        ∧ (1 ≤ n → n ≤ s.spindles.length → n ≤ 1728 → (spindle n s).state = .locked →
          Executes .unlock f rest s [0, 0] [.spindleStates, .sinceDoff] fun t =>
            spindle n t = { spindle n s with state := .idle, sinceDoff := 0 }
              ∧ ∀ x, x ≠ n → 1 ≤ x → spindle x t = spindle x s)
        ∧ (n = 0 → Executes .unlock f rest s [0, 0] [.spindleStates, .sinceDoff] fun t =>
            t.spindles = s.spindles.map fun e =>
              if e.state = .locked then { e with state := .idle, sinceDoff := 0 } else e)))
    ∧ (∀ step : Byte, f.payload = [6, step] →
      let cap := min s.sgv.governor.cap step.toNat
      (7 < step.toNat → answered .speedLimit 4)
      ∧ (step.toNat ≤ 7 → s.part = .unconfigured →
        Executes .speedLimit f rest s [0, 0] [.supervisorCap] fun t => t.sgv.supervisorCap = step.toNat)
      ∧ (step.toNat ≤ 7 → s.part = .commissioned →
        Executes .speedLimit f rest s [0, 0] (.supervisorCap :: capSends) fun t => t.sgv.supervisorCap = step.toNat
          ∧ (cap = effectiveCap s → Kept (.supervisorCap :: answers) s t)
          ∧ (cap ≠ effectiveCap s → Driven (.speedCap cap (stepSpeed cap s)) s t ∧ t.sgv.lastSent = cap
              ∧ t.sgv.sinceSent = 0 ∧ t.sgv.mismatch = (if cap = s.sgv.lastSent then s.sgv.mismatch else 0))))
    ∧ (∀ more, f.payload = 7 :: more →
      (s.pool.staged = none → answered .applyPartition 6)
      ∧ ∀ p, s.pool.staged = some p →
        (512 - p.reserves.sum < overflowSum p.reserves s → answered .applyPartition 7)
        ∧ (overflowSum p.reserves s ≤ 512 - p.reserves.sum →
          Executes .applyPartition f rest s [0, 0] (.reserves :: .stagedPartition :: sweeps) fun t =>
            t.pool.reserves = p.reserves ∧ t.pool.staged = none
              ∧ (Sweepable s →
                  Swept (testPoolLow { s with pool := { s.pool with reserves := p.reserves, staged := none } }) t)
              ∧ ((∀ e ∈ s.spindles, e.state.isUnlisted = false) →
                  jobsOf t = jobsOf s
                    ∧ Kept (.reserves :: .stagedPartition :: .cond .unlistedPresent :: (reports ++ answers)) s t)))
    ∧ (∀ more, f.payload = 8 :: more →
      (s.part = .unconfigured → answered .shiftClose 9)
      ∧ (s.part = .commissioned → Executes .shiftClose f rest s [0, 0] shiftCloses fun t =>
          ShiftFiled s.scs.day 0 .command (stampNow s) s t))

/-- CLOCK_SET writes the time as carried, CLOCK_TRIM holds a correction value of −64 to +63 steps for the next step and is
BUSY while one is held or owed, and CLOCK_ALIGN moves a valid clock in range to the nearest whole minute, where it may close a
shift, which clears the live flag COUNTER_SATURATED, and where a day number at its top stays and sets that flag; a tick owed
is discarded by the first and the last (R37, R48, R172, R175, R176, R178, R179, R181). That a CLOCK_TRIM out of range is
BAD_VALUE while one is held or owed too is the model's (log entry 21). -/
def Obligations.ClockCommandsSetTheTime : Prop :=
  ∀ (f : LineFrame) (rest : List LineFrame) (s : State), Ready f rest s → f.kind = 0x42 →
    let answered := fun row code => Executes row f rest s [code, 0] [] fun _ => True
    let settled : State → Prop := fun t => t.scs.trim = (match s.scs.trim with | .owing _ => .none | held => held)
    (∀ (h m sec : Byte) (day : Nat), day < 65536 → f.payload = 9 :: h :: m :: sec :: be 2 day →
      Executes .clockSet f rest s [0, 0] (.time :: .valid :: .trim :: .cond .clockInvalid :: reports) fun t =>
        clockFace t.scs = (h.toNat, m.toNat, sec.toNat, day) ∧ t.scs.sub = 0 ∧ t.scs.valid = true ∧ settled t
          ∧ t.mfh.live.clockInvalid = false
          ∧ ((∀ cv, s.scs.trim ≠ .owing cv) → Kept (.time :: .valid :: .cond .clockInvalid :: answers) s t)
          ∧ (∀ cv, s.scs.trim = .owing cv → noticeEnabled .trimDone s = true → canGrant .notice s = true →
              none ∈ s.pool.records →
              ∃ r stamp, recordAt r t
                = some (.notice { kind := .trimDone, number := s.mfh.noticeNumber, stamp := stamp, args := [cv, 3] })))
    ∧ (∀ cv : Byte, f.payload = [10, cv] →
      (cv.toInt < -64 ∨ 63 < cv.toInt → answered .clockTrim 4)
      ∧ (-64 ≤ cv.toInt → cv.toInt ≤ 63 →
        (s.scs.trim = .none → Executes .clockTrim f rest s [0, 0] [.trim] fun t => t.scs.trim = .waiting cv.toInt)
        ∧ (s.scs.trim ≠ .none → answered .clockTrim 5)))
    ∧ (∀ more, f.payload = 11 :: more →
      let inRange := s.scs.hours < 24 ∧ s.scs.minutes < 60 ∧ s.scs.seconds < 60
      (s.scs.valid = false ∨ ¬ inRange → answered .clockAlign 6)
      ∧ (s.scs.valid = true → inRange → s.scs.seconds < 30 →
        Executes .clockAlign f rest s [0, 0] (.time :: .trim :: reports) fun t =>
          clockFace t.scs = (s.scs.hours, s.scs.minutes, 0, s.scs.day) ∧ t.scs.sub = 0 ∧ settled t)
      ∧ (s.scs.valid = true → inRange → 30 ≤ s.scs.seconds →
        Executes .clockAlign f rest s [0, 0] (.time :: .trim :: shiftCloses) fun t =>
          clockFace t.scs = timeAfter { s.scs with seconds := 59 } ∧ t.scs.sub = 0 ∧ settled t
          ∧ (dayStays { s.scs with seconds := 59 } = true →
              s.part = .unconfigured ∨ some (daySeconds (clockFace t.scs)) ∉ s.scs.shifts → Saturated s t)
          ∧ (s.part = .unconfigured ∨ some (daySeconds (clockFace t.scs)) ∉ s.scs.shifts →
              Kept (.time :: .trim :: (reports ++ answers)) s t)
          ∧ ∀ i, s.part = .commissioned → s.scs.day < 65535 → (∀ cv, s.scs.trim ≠ .owing cv) →
              s.scs.shifts[i]? = some (some (daySeconds (clockFace t.scs))) →
              (∀ j, j < i → s.scs.shifts[j]? ≠ some (some (daySeconds (clockFace t.scs)))) →
              (∀ r ∈ s.scs.history, r.day ≠ t.scs.day ∨ r.index ≠ i + 1) →
              ShiftFiled t.scs.day (i + 1) .clock
                (some { hours := t.scs.hours, minutes := t.scs.minutes, seconds := t.scs.seconds, day := t.scs.day }) s t))

/-- A FORWARD of at least seven bytes to the sensor of an enabled section puts its inner frame on the way down the frame link,
byte for byte; a full pass-through queue answers BUSY and counts it, which at the counter's top sets COUNTER_SATURATED, and
any other is NO_ROUTE or BAD_VALUE. A COMMAND whose code names nothing is BAD_VALUE, and so is one cut short within its
arguments (R192, R194, R196, R202, R212). That a COMMAND with no payload is of the same row, and one cut short of the row its
code names, a DOFF_CLEAR with no option of the row of an option that names nothing, is the model's, and so is the answer
BAD_VALUE to each of them (log entry 25). That a COMMAND cut short is answered BAD_VALUE in either part state, before its
NOT_COMMISSIONED or REFUSED, is the model's too (log entry 21). -/
def Obligations.ForwardSendsTheInnerFrame : Prop :=
  ∀ (f : LineFrame) (rest : List LineFrame) (s : State), Ready f rest s →
    let answered := fun row code => Executes row f rest s [code, 0] [] fun _ => True
    (f.kind = 0x45 →
      (f.payload.length < 7 → answered .forward 4)
      ∧ (7 ≤ f.payload.length → (byteAt f.payload 0 < 1 ∨ 72 < byteAt f.payload 0
          ∨ (sectionAt (byteAt f.payload 0) s).enabled = false) → answered .forward 8)
      ∧ (7 ≤ f.payload.length → 1 ≤ byteAt f.payload 0 → byteAt f.payload 0 ≤ 72 →
          (sectionAt (byteAt f.payload 0) s).enabled = true →
          (s.fli.pass.length < 8 → Executes .forward f rest s [0, 0] [.pass, .drive, .down] fun t =>
            passLine t = passLine s ++ [f.payload] ∧ driveLine t = driveLine s)
          ∧ (8 ≤ s.fli.pass.length → Executes .forward f rest s [5, 0] (.linkErrors :: reports) fun t =>
            t.fli.passBusy = min 65535 (s.fli.passBusy + 1) ∧ (65535 ≤ s.fli.passBusy → Saturated s t)
              ∧ t.fli.rxError = s.fli.rxError
              ∧ t.fli.unknownSection = s.fli.unknownSection ∧ t.fli.forwardDrop = s.fli.forwardDrop
              ∧ t.fli.commandDrop = s.fli.commandDrop)))
    ∧ (f.kind = 0x42 → (f.payload = [] ∨ 12 ≤ byteAt f.payload 0) → answered .commandCodeNamingNone 4)
    ∧ (f.kind = 0x42 → ∀ more : List Byte,
        (f.payload = 0 :: more → more.length = 1 → answered .commission 4)
        ∧ (f.payload = [4] → answered .doffClearOptionNamingNone 4)
        ∧ (f.payload = 5 :: more → more.length < 2 → answered .unlock 4)
        ∧ (f.payload = [6] → answered .speedLimit 4)
        ∧ (f.payload = 9 :: more → more.length < 5 → answered .clockSet 4)
        ∧ (f.payload = [10] → answered .clockTrim 4))

end
end

