-- ==== Sys2Proof/Laws/Bytes.lean ====
section
/-! SUPPORT. Numbers as bytes and back, and the entries of the tables written and read. -/

namespace Sys2Proof.Machine

open Sys2Proof.Safety

@[simp] theorem be_length (w v : Nat) : (be w v).length = w := by
  induction w with
  | zero => rfl
  | succ w ih => simp [be, ih]

theorem beVal_foldl (l : List Byte) : ∀ acc : Nat,
    l.foldl (fun acc b => acc * 256 + b.toNat) acc = acc * 256 ^ l.length + beVal l := by
  unfold beVal
  induction l with
  | nil => intro acc; simp
  | cons b l ih =>
    intro acc
    simp only [List.foldl_cons, List.length_cons]
    rw [ih, ih (0 * 256 + b.toNat), Nat.pow_succ]
    ring

theorem beVal_cons (b : Byte) (l : List Byte) : beVal (b :: l) = b.toNat * 256 ^ l.length + beVal l := by
  have := beVal_foldl l (0 * 256 + b.toNat)
  simpa [beVal] using this

/-- A number comes back from the bytes that spell it. -/
theorem beVal_be (w v : Nat) : beVal (be w v) = v % 256 ^ w := by
  induction w generalizing v with
  | zero => simp [be, beVal, Nat.mod_one]
  | succ w ih =>
    have h := Nat.mod_mul (x := v) (a := 256 ^ w) (b := 256)
    rw [be, beVal_cons, ih, be_length, BitVec.toNat_ofNat, Nat.pow_succ 256 w, h, Nat.mul_comm (256 ^ w)]
    exact Nat.add_comm _ _

theorem byteAt_eq_fieldAt (l : List Byte) (i : Nat) : byteAt l i = fieldAt l i 1 := by
  unfold byteAt fieldAt
  rcases h : l.drop i with _ | ⟨b, r⟩
  · have : l.length ≤ i := List.drop_eq_nil_iff.mp h
    simp [beVal, this]
  · have hi : l[i]? = some b := by
      have := congrArg (fun m => m[0]?) h
      simpa using this
    simp [beVal, List.getD, hi]

/-- A field that lies past a number is read in what follows it. -/
theorem fieldAt_skip {w i : Nat} (v : Nat) (l : List Byte) (n : Nat) (h : w ≤ i) :
    fieldAt (be w v ++ l) i n = fieldAt l (i - w) n := by
  have e : w + (i - w) = i := by omega
  simp [fieldAt, List.drop_append, be_length, List.drop_eq_nil_of_le (as := be w v) (by simpa using h)]

/-- A field that stands first is read whole. -/
theorem fieldAt_head (w v : Nat) (l : List Byte) : fieldAt (be w v ++ l) 0 w = v % 256 ^ w := by
  simp [fieldAt, beVal_be]

theorem fieldAt_only (w v : Nat) : fieldAt (be w v) 0 w = v % 256 ^ w := by
  simpa using fieldAt_head w v []

theorem fieldAt_last {w i : Nat} (v : Nat) (n : Nat) (h : w ≤ i) : fieldAt (be w v) i n = 0 := by
  simp [fieldAt, List.drop_eq_nil_of_le (as := be w v) (by simpa using h), beVal]

@[simp] theorem ranged_of {lo hi v : Nat} (h1 : lo ≤ v) (h2 : v ≤ hi) : ranged lo hi v = some v := by
  simp [ranged, h1, h2]

@[simp] theorem b1_length (v : Nat) : (b1 v).length = 1 := rfl
theorem yesNo_lt (b : Bool) : yesNo b < 256 := by cases b <;> decide
@[simp] theorem yesNo?_yesNo (b : Bool) : yesNo? (yesNo b) = some b := by cases b <;> rfl
@[simp] theorem ForwardMode.ofCode?_code (m : ForwardMode) : ForwardMode.ofCode? m.code = some m := by cases m <;> rfl
theorem ForwardMode.code_lt (m : ForwardMode) : m.code < 256 := by cases m <;> decide
@[simp] theorem OfferPolicy.ofCode?_code (p : OfferPolicy) : OfferPolicy.ofCode? p.code = some p := by cases p <;> rfl
theorem OfferPolicy.code_lt (p : OfferPolicy) : p.code < 256 := by cases p <;> decide

/-! ## A legal entry is read back from its bytes -/

theorem parseDetection_bytes {d : Detection} (h : legalDetection d) : parseDetection (detectionBytes d) = some d := by
  obtain ⟨h1, h2, h3, h4, h5, h6, h7, h8, h9, h10, h11, h12⟩ := h
  have m0 : d.breakFloor % 65536 = d.breakFloor := by omega
  have m1 : d.slipFloor % 65536 = d.slipFloor := by omega
  have m2 : d.confirmCount % 256 = d.confirmCount := by omega
  have m3 : d.healConfirm % 256 = d.healConfirm := by omega
  have m4 : d.rogueLimit % 256 = d.rogueLimit := by omega
  have m5 : d.silenceLimit % 256 = d.silenceLimit := by omega
  simp [parseDetection, detectionBytes, b1, byteAt_eq_fieldAt, fieldAt_skip, fieldAt_head, fieldAt_only, ranged, *]

theorem parseMarks_bytes {m : RovingMarks} (h : legalMarks m) : parseMarks (marksBytes m) = some m := by
  obtain ⟨h1, h2, h3, h4, h5, h6, h7, h8, h9, h10⟩ := h
  have m0 : m.lowMark % 65536 = m.lowMark := by omega
  have m1 : m.predoffMark % 65536 = m.predoffMark := by omega
  have m2 : m.batchCount % 256 = m.batchCount := by omega
  have m3 : m.retryDelay % 65536 = m.retryDelay := by omega
  have m4 : m.bayTimeout % 65536 = m.bayTimeout := by omega
  simp [parseMarks, marksBytes, b1, byteAt_eq_fieldAt, fieldAt_skip, fieldAt_head, fieldAt_only, ranged, *]

theorem parseDoffTimers_bytes {d : DoffTimers} (h : legalDoffTimers d) : parseDoffTimers (doffTimersBytes d) = some d := by
  obtain ⟨h1, h2, h3, h4, h5⟩ := h
  have m0 : d.parkTimeout % 65536 = d.parkTimeout := by omega
  have m1 : d.doffTimeout % 65536 = d.doffTimeout := by omega
  have m2 : d.grace % 256 = d.grace := by omega
  simp [parseDoffTimers, doffTimersBytes, b1, byteAt_eq_fieldAt, fieldAt_skip, fieldAt_head, fieldAt_only, ranged, *]

theorem parseGovernor_bytes {g : GovernorTable} (h : legalGovernor g) : parseGovernor (governorBytes g) = some g := by
  obtain ⟨h1, h2, h3, h4, h5, h6, h7, h8, h9⟩ := h
  have m0 : g.slotLen % 65536 = g.slotLen := by omega
  have m1 : g.minExposure % 4294967296 = g.minExposure := by omega
  have m2 : g.rateLimit % 65536 = g.rateLimit := by omega
  have m3 : g.hysteresis % 65536 = g.hysteresis := by omega
  have m4 : g.entryStep % 256 = g.entryStep := by omega
  have m5 : g.floorStep % 256 = g.floorStep := by omega
  have hy : g.hysteresis ≤ g.rateLimit - 1 := by omega
  simp [parseGovernor, governorBytes, b1, byteAt_eq_fieldAt, fieldAt_skip, fieldAt_head, fieldAt_only, ranged, *]

theorem parseServiceLine_bytes {t : ServiceTable} (h : legalServiceLine t) : parseServiceLine (serviceLineBytes t) = some t := by
  obtain ⟨h1, h2, h3, h4, h5, h6⟩ := h
  have m0 : t.gapPart % 256 = t.gapPart := by omega
  have m1 : t.levelThreshold % 256 = t.levelThreshold := by omega
  have m2 : t.agentSilence % 256 = t.agentSilence := by omega
  simp [parseServiceLine, serviceLineBytes, b1, byteAt_eq_fieldAt, fieldAt_skip, fieldAt_head, fieldAt_only, ranged, *]

theorem parsePartition_bytes {p : StagedPartition} (h : legalPartition p) :
    parsePartition (partitionBytes p) = some p := by
  obtain ⟨h1, h2, h3, h4, h5, h6, h7, h8, h9⟩ := h
  have m0 : p.reserves.piece % 65536 = p.reserves.piece := by omega
  have m1 : p.reserves.hold % 65536 = p.reserves.hold := by omega
  have m2 : p.reserves.bay % 65536 = p.reserves.bay := by omega
  have m3 : p.reserves.notice % 65536 = p.reserves.notice := by omega
  have m4 : yesNo p.atDoff % 256 = yesNo p.atDoff := Nat.mod_eq_of_lt (yesNo_lt _)
  simp [parsePartition, partitionBytes, b1, byteAt_eq_fieldAt, fieldAt_skip, fieldAt_head, fieldAt_only, ranged,
    Partition.sum, *]

theorem ranged_bind {β : Type} {lo hi v w : Nat} {f : Nat → Option β} (e : v = w) (h1 : lo ≤ w) (h2 : w ≤ hi) :
    (ranged lo hi v >>= f) = f w := by
  subst e
  rw [ranged_of h1 h2]
  rfl

/-- The process table that eight legal fields give. (Rewriting under its last test makes the kernel compute with large
numbers, so the fields are taken one by one.) -/
theorem parseProcess_fields {pl c d ct rl cop wm fc : Nat} {e : List Byte}
    (e0 : fieldAt e 0 4 = pl) (e1 : fieldAt e 4 2 = c) (e2 : fieldAt e 6 2 = d) (e3 : fieldAt e 8 2 = ct)
    (e4 : fieldAt e 10 2 = rl) (e5 : fieldAt e 12 2 = cop) (e6 : fieldAt e 14 2 = wm)
    (e7 : (if fieldAt e 16 2 = 0 then 900 else fieldAt e 16 2) = fc)
    (h1 : 10000 ≤ pl) (h2 : pl ≤ 999999) (h3 : c ≤ 150) (h4 : 1000 ≤ d) (h5 : d ≤ 8000) (h6 : 300 ≤ ct)
    (h7 : ct ≤ 20000) (h8 : 200 ≤ rl) (h9 : rl ≤ 4000) (h10 : 500 ≤ cop) (h11 : cop ≤ 50000) (hw : wm ≤ cop - 1)
    (h13 : 500 ≤ fc) (h14 : fc ≤ 1000) (ht : ProcessTable.target ⟨pl, c, d, ct, rl, cop, wm, fc⟩ ≤ max32) :
    parseProcess e = some ⟨pl, c, d, ct, rl, cop, wm, fc⟩ :=
  (ranged_bind e0 h1 h2).trans <| (ranged_bind e1 (Nat.zero_le _) h3).trans <| (ranged_bind e2 h4 h5).trans <|
    (ranged_bind e3 h6 h7).trans <| (ranged_bind e4 h8 h9).trans <| (ranged_bind e5 h10 h11).trans <|
    (ranged_bind e6 (Nat.zero_le _) hw).trans <| (ranged_bind e7 h13 h14).trans (if_pos ht)

theorem parseProcess_bytes {t : ProcessTable} (h : legalProcess t) : parseProcess (processBytes t) = some t := by
  obtain ⟨pl, c, d, ct, rl, cop, wm, fc⟩ := t
  obtain ⟨h1, h2, h3, h4, h5, h6, h7, h8, h9, h10, h11, h12, h13, h14, h15⟩ := h
  refine parseProcess_fields ?_ ?_ ?_ ?_ ?_ ?_ ?_ ?_ h1 h2 h3 h4 h5 h6 h7 h8 h9 h10 h11 (Nat.le_sub_one_of_lt h12) h13
    h14 h15 <;> clear h15 <;> simp only at h1 h2 h3 h4 h5 h6 h7 h8 h9 h10 h11 h12 h13 h14 <;>
    simp [processBytes, fieldAt_skip, fieldAt_head, fieldAt_only] <;> (try split_ifs) <;> omega

theorem parseStopAction_bytes {a : StopAction} (h : legalStopAction a) :
    parseStopAction (stopActionBytes a) = some a := by
  have h1 : a.downtimeClass ≤ 3 := h
  have m0 : a.downtimeClass % 256 = a.downtimeClass := by omega
  have m1 : a.offers.code % 256 = a.offers.code := Nat.mod_eq_of_lt (OfferPolicy.code_lt _)
  have m2 : yesNo a.park % 256 = yesNo a.park := Nat.mod_eq_of_lt (yesNo_lt _)
  have m3 : yesNo a.graceOnRestart % 256 = yesNo a.graceOnRestart := Nat.mod_eq_of_lt (yesNo_lt _)
  simp [parseStopAction, stopActionBytes, b1, byteAt_eq_fieldAt, fieldAt_skip, fieldAt_head, fieldAt_only, ranged, *]

theorem parseSection_bytes (e : SectionEntry) :
    parseSection (b1 (yesNo e.enabled) ++ b1 e.mode.code) = some e := by
  have m0 : yesNo e.enabled % 256 = yesNo e.enabled := Nat.mod_eq_of_lt (yesNo_lt _)
  have m1 : e.mode.code % 256 = e.mode.code := Nat.mod_eq_of_lt (ForwardMode.code_lt _)
  simp [parseSection, b1, byteAt_eq_fieldAt, fieldAt_skip, fieldAt_head, fieldAt_only, *]

theorem parseSpindle_bytes (e : SpindleEntry) :
    parseSpindle (b1 (yesNo e.inUse) ++ b1 (yesNo e.clampFitted)) = some e := by
  have m0 : yesNo e.inUse % 256 = yesNo e.inUse := Nat.mod_eq_of_lt (yesNo_lt _)
  have m1 : yesNo e.clampFitted % 256 = yesNo e.clampFitted := Nat.mod_eq_of_lt (yesNo_lt _)
  simp [parseSpindle, b1, byteAt_eq_fieldAt, fieldAt_skip, fieldAt_head, fieldAt_only, *]

theorem parseCarriage_bytes {e : CarriageEntry} (h : legalCarriage e) :
    parseCarriage (carriageEntryBytes e) = some e := by
  obtain ⟨h1, h2, h3, h4, h5, h6, h7, h8, h9⟩ := h
  have m0 : e.zone.first % 65536 = e.zone.first := by omega
  have m1 : e.zone.last % 65536 = e.zone.last := by omega
  have m2 : e.acceptTimeout % 256 = e.acceptTimeout := by omega
  have m3 : e.resultTimeout % 65536 = e.resultTimeout := by omega
  have m4 : e.maxAttempts % 256 = e.maxAttempts := by omega
  have m5 : yesNo e.enabled % 256 = yesNo e.enabled := Nat.mod_eq_of_lt (yesNo_lt _)
  have hf : e.zone.first ≤ 1728 := by omega
  simp [parseCarriage, carriageEntryBytes, b1, byteAt_eq_fieldAt, fieldAt_skip, fieldAt_head, fieldAt_only, ranged, *]

/-! ## A run of entries is read entry by entry (R200) -/

theorem chunks_flatMap {α : Type} (size : Nat) (f : α → List Byte) (h : ∀ a, (f a).length = size) :
    ∀ l : List α, chunks size l.length (l.flatMap f) = l.map f
  | [] => rfl
  | a :: l => by simp [chunks, h, chunks_flatMap size f h l]

theorem allSome_map {α β : Type} {f : α → Option β} {g : α → β} :
    ∀ {l : List α}, (∀ a ∈ l, f a = some (g a)) → allSome (l.map f) = some (l.map g)
  | [], _ => rfl
  | a :: l, h => by
    have ih := allSome_map (l := l) fun b hb => h b (List.mem_cons_of_mem _ hb)
    simp [allSome, h a List.mem_cons_self, ih]

theorem parseRun_map {α : Type} {parse : List Byte → Option α} {f : α → List Byte} :
    ∀ (i : Nat) (l : List α), (∀ a ∈ l, parse (f a) = some a) →
      parseRun (fun _ e => parse e) i (l.map f) = some l
  | _, [], _ => rfl
  | i, a :: l, h => by
    have ih := parseRun_map (i + 1) l fun b hb => h b (List.mem_cons_of_mem _ hb)
    simp only [parseRun] at ih ⊢
    simp [mapFrom, allSome, h a List.mem_cons_self, ih]

end Sys2Proof.Machine
end

