-- ==== Sys2Proof/Laws/State.lean ====
section
/-! SUPPORT. The small lemmas of State's updates: what each leaves as it was, field by field, and what it writes. -/

namespace Sys2Proof.Machine

/-! `setRecord` writes `pool` alone. -/
@[simp] theorem setRecord_part (r : Nat) (j : Option JobRecord) (s : State) : (setRecord r j s).part = s.part := rfl
@[simp] theorem setRecord_sections (r : Nat) (j : Option JobRecord) (s : State) : (setRecord r j s).sections = s.sections := rfl
@[simp] theorem setRecord_spindles (r : Nat) (j : Option JobRecord) (s : State) : (setRecord r j s).spindles = s.spindles := rfl
@[simp] theorem setRecord_detection (r : Nat) (j : Option JobRecord) (s : State) : (setRecord r j s).detection = s.detection := rfl
@[simp] theorem setRecord_pcu (r : Nat) (j : Option JobRecord) (s : State) : (setRecord r j s).pcu = s.pcu := rfl
@[simp] theorem setRecord_pds (r : Nat) (j : Option JobRecord) (s : State) : (setRecord r j s).pds = s.pds := rfl
@[simp] theorem setRecord_slc (r : Nat) (j : Option JobRecord) (s : State) : (setRecord r j s).slc = s.slc := rfl
@[simp] theorem setRecord_rvm (r : Nat) (j : Option JobRecord) (s : State) : (setRecord r j s).rvm = s.rvm := rfl
@[simp] theorem setRecord_dfs (r : Nat) (j : Option JobRecord) (s : State) : (setRecord r j s).dfs = s.dfs := rfl
@[simp] theorem setRecord_sgv (r : Nat) (j : Option JobRecord) (s : State) : (setRecord r j s).sgv = s.sgv := rfl
@[simp] theorem setRecord_scs (r : Nat) (j : Option JobRecord) (s : State) : (setRecord r j s).scs = s.scs := rfl
@[simp] theorem setRecord_fli (r : Nat) (j : Option JobRecord) (s : State) : (setRecord r j s).fli = s.fli := rfl
@[simp] theorem setRecord_mfh (r : Nat) (j : Option JobRecord) (s : State) : (setRecord r j s).mfh = s.mfh := rfl
@[simp] theorem setRecord_freeCount (r : Nat) (j : Option JobRecord) (s : State) : (setRecord r j s).freeCount = s.freeCount := rfl
@[simp] theorem setRecord_pending (r : Nat) (j : Option JobRecord) (s : State) : (setRecord r j s).pending = s.pending := rfl

/-! `setPiece` writes `pool` alone. -/
@[simp] theorem setPiece_part (r : Nat) (p : PieceRecord) (s : State) : (setPiece r p s).part = s.part := rfl
@[simp] theorem setPiece_sections (r : Nat) (p : PieceRecord) (s : State) : (setPiece r p s).sections = s.sections := rfl
@[simp] theorem setPiece_spindles (r : Nat) (p : PieceRecord) (s : State) : (setPiece r p s).spindles = s.spindles := rfl
@[simp] theorem setPiece_detection (r : Nat) (p : PieceRecord) (s : State) : (setPiece r p s).detection = s.detection := rfl
@[simp] theorem setPiece_pcu (r : Nat) (p : PieceRecord) (s : State) : (setPiece r p s).pcu = s.pcu := rfl
@[simp] theorem setPiece_pds (r : Nat) (p : PieceRecord) (s : State) : (setPiece r p s).pds = s.pds := rfl
@[simp] theorem setPiece_slc (r : Nat) (p : PieceRecord) (s : State) : (setPiece r p s).slc = s.slc := rfl
@[simp] theorem setPiece_rvm (r : Nat) (p : PieceRecord) (s : State) : (setPiece r p s).rvm = s.rvm := rfl
@[simp] theorem setPiece_dfs (r : Nat) (p : PieceRecord) (s : State) : (setPiece r p s).dfs = s.dfs := rfl
@[simp] theorem setPiece_sgv (r : Nat) (p : PieceRecord) (s : State) : (setPiece r p s).sgv = s.sgv := rfl
@[simp] theorem setPiece_scs (r : Nat) (p : PieceRecord) (s : State) : (setPiece r p s).scs = s.scs := rfl
@[simp] theorem setPiece_fli (r : Nat) (p : PieceRecord) (s : State) : (setPiece r p s).fli = s.fli := rfl
@[simp] theorem setPiece_mfh (r : Nat) (p : PieceRecord) (s : State) : (setPiece r p s).mfh = s.mfh := rfl
@[simp] theorem setPiece_freeCount (r : Nat) (p : PieceRecord) (s : State) : (setPiece r p s).freeCount = s.freeCount := rfl
@[simp] theorem setPiece_pending (r : Nat) (p : PieceRecord) (s : State) : (setPiece r p s).pending = s.pending := rfl

/-! `setRequest` writes `pool` alone. -/
@[simp] theorem setRequest_part (r : Nat) (q : BayRequest) (s : State) : (setRequest r q s).part = s.part := rfl
@[simp] theorem setRequest_sections (r : Nat) (q : BayRequest) (s : State) : (setRequest r q s).sections = s.sections := rfl
@[simp] theorem setRequest_spindles (r : Nat) (q : BayRequest) (s : State) : (setRequest r q s).spindles = s.spindles := rfl
@[simp] theorem setRequest_detection (r : Nat) (q : BayRequest) (s : State) : (setRequest r q s).detection = s.detection := rfl
@[simp] theorem setRequest_pcu (r : Nat) (q : BayRequest) (s : State) : (setRequest r q s).pcu = s.pcu := rfl
@[simp] theorem setRequest_pds (r : Nat) (q : BayRequest) (s : State) : (setRequest r q s).pds = s.pds := rfl
@[simp] theorem setRequest_slc (r : Nat) (q : BayRequest) (s : State) : (setRequest r q s).slc = s.slc := rfl
@[simp] theorem setRequest_rvm (r : Nat) (q : BayRequest) (s : State) : (setRequest r q s).rvm = s.rvm := rfl
@[simp] theorem setRequest_dfs (r : Nat) (q : BayRequest) (s : State) : (setRequest r q s).dfs = s.dfs := rfl
@[simp] theorem setRequest_sgv (r : Nat) (q : BayRequest) (s : State) : (setRequest r q s).sgv = s.sgv := rfl
@[simp] theorem setRequest_scs (r : Nat) (q : BayRequest) (s : State) : (setRequest r q s).scs = s.scs := rfl
@[simp] theorem setRequest_fli (r : Nat) (q : BayRequest) (s : State) : (setRequest r q s).fli = s.fli := rfl
@[simp] theorem setRequest_mfh (r : Nat) (q : BayRequest) (s : State) : (setRequest r q s).mfh = s.mfh := rfl
@[simp] theorem setRequest_freeCount (r : Nat) (q : BayRequest) (s : State) : (setRequest r q s).freeCount = s.freeCount := rfl
@[simp] theorem setRequest_pending (r : Nat) (q : BayRequest) (s : State) : (setRequest r q s).pending = s.pending := rfl

/-! `modSpindle` writes `spindles` alone. -/
@[simp] theorem modSpindle_part (n : Nat) (f : Spindle → Spindle) (s : State) : (modSpindle n f s).part = s.part := rfl
@[simp] theorem modSpindle_sections (n : Nat) (f : Spindle → Spindle) (s : State) : (modSpindle n f s).sections = s.sections := rfl
@[simp] theorem modSpindle_detection (n : Nat) (f : Spindle → Spindle) (s : State) : (modSpindle n f s).detection = s.detection := rfl
@[simp] theorem modSpindle_pcu (n : Nat) (f : Spindle → Spindle) (s : State) : (modSpindle n f s).pcu = s.pcu := rfl
@[simp] theorem modSpindle_pool (n : Nat) (f : Spindle → Spindle) (s : State) : (modSpindle n f s).pool = s.pool := rfl
@[simp] theorem modSpindle_pds (n : Nat) (f : Spindle → Spindle) (s : State) : (modSpindle n f s).pds = s.pds := rfl
@[simp] theorem modSpindle_slc (n : Nat) (f : Spindle → Spindle) (s : State) : (modSpindle n f s).slc = s.slc := rfl
@[simp] theorem modSpindle_rvm (n : Nat) (f : Spindle → Spindle) (s : State) : (modSpindle n f s).rvm = s.rvm := rfl
@[simp] theorem modSpindle_dfs (n : Nat) (f : Spindle → Spindle) (s : State) : (modSpindle n f s).dfs = s.dfs := rfl
@[simp] theorem modSpindle_sgv (n : Nat) (f : Spindle → Spindle) (s : State) : (modSpindle n f s).sgv = s.sgv := rfl
@[simp] theorem modSpindle_scs (n : Nat) (f : Spindle → Spindle) (s : State) : (modSpindle n f s).scs = s.scs := rfl
@[simp] theorem modSpindle_fli (n : Nat) (f : Spindle → Spindle) (s : State) : (modSpindle n f s).fli = s.fli := rfl
@[simp] theorem modSpindle_mfh (n : Nat) (f : Spindle → Spindle) (s : State) : (modSpindle n f s).mfh = s.mfh := rfl
@[simp] theorem modSpindle_freeCount (n : Nat) (f : Spindle → Spindle) (s : State) : (modSpindle n f s).freeCount = s.freeCount := rfl
@[simp] theorem modSpindle_pending (n : Nat) (f : Spindle → Spindle) (s : State) : (modSpindle n f s).pending = s.pending := rfl

/-! `setState` writes `spindles` alone. -/
@[simp] theorem setState_part (n : Nat) (st : SpindleState) (s : State) : (setState n st s).part = s.part := rfl
@[simp] theorem setState_sections (n : Nat) (st : SpindleState) (s : State) : (setState n st s).sections = s.sections := rfl
@[simp] theorem setState_detection (n : Nat) (st : SpindleState) (s : State) : (setState n st s).detection = s.detection := rfl
@[simp] theorem setState_pcu (n : Nat) (st : SpindleState) (s : State) : (setState n st s).pcu = s.pcu := rfl
@[simp] theorem setState_pool (n : Nat) (st : SpindleState) (s : State) : (setState n st s).pool = s.pool := rfl
@[simp] theorem setState_pds (n : Nat) (st : SpindleState) (s : State) : (setState n st s).pds = s.pds := rfl
@[simp] theorem setState_slc (n : Nat) (st : SpindleState) (s : State) : (setState n st s).slc = s.slc := rfl
@[simp] theorem setState_rvm (n : Nat) (st : SpindleState) (s : State) : (setState n st s).rvm = s.rvm := rfl
@[simp] theorem setState_dfs (n : Nat) (st : SpindleState) (s : State) : (setState n st s).dfs = s.dfs := rfl
@[simp] theorem setState_sgv (n : Nat) (st : SpindleState) (s : State) : (setState n st s).sgv = s.sgv := rfl
@[simp] theorem setState_scs (n : Nat) (st : SpindleState) (s : State) : (setState n st s).scs = s.scs := rfl
@[simp] theorem setState_fli (n : Nat) (st : SpindleState) (s : State) : (setState n st s).fli = s.fli := rfl
@[simp] theorem setState_mfh (n : Nat) (st : SpindleState) (s : State) : (setState n st s).mfh = s.mfh := rfl
@[simp] theorem setState_freeCount (n : Nat) (st : SpindleState) (s : State) : (setState n st s).freeCount = s.freeCount := rfl
@[simp] theorem setState_pending (n : Nat) (st : SpindleState) (s : State) : (setState n st s).pending = s.pending := rfl

/-! `modSection` writes `sections` alone. -/
@[simp] theorem modSection_part (b : Nat) (f : Section → Section) (s : State) : (modSection b f s).part = s.part := rfl
@[simp] theorem modSection_spindles (b : Nat) (f : Section → Section) (s : State) : (modSection b f s).spindles = s.spindles := rfl
@[simp] theorem modSection_detection (b : Nat) (f : Section → Section) (s : State) : (modSection b f s).detection = s.detection := rfl
@[simp] theorem modSection_pcu (b : Nat) (f : Section → Section) (s : State) : (modSection b f s).pcu = s.pcu := rfl
@[simp] theorem modSection_pool (b : Nat) (f : Section → Section) (s : State) : (modSection b f s).pool = s.pool := rfl
@[simp] theorem modSection_pds (b : Nat) (f : Section → Section) (s : State) : (modSection b f s).pds = s.pds := rfl
@[simp] theorem modSection_slc (b : Nat) (f : Section → Section) (s : State) : (modSection b f s).slc = s.slc := rfl
@[simp] theorem modSection_rvm (b : Nat) (f : Section → Section) (s : State) : (modSection b f s).rvm = s.rvm := rfl
@[simp] theorem modSection_dfs (b : Nat) (f : Section → Section) (s : State) : (modSection b f s).dfs = s.dfs := rfl
@[simp] theorem modSection_sgv (b : Nat) (f : Section → Section) (s : State) : (modSection b f s).sgv = s.sgv := rfl
@[simp] theorem modSection_scs (b : Nat) (f : Section → Section) (s : State) : (modSection b f s).scs = s.scs := rfl
@[simp] theorem modSection_fli (b : Nat) (f : Section → Section) (s : State) : (modSection b f s).fli = s.fli := rfl
@[simp] theorem modSection_mfh (b : Nat) (f : Section → Section) (s : State) : (modSection b f s).mfh = s.mfh := rfl
@[simp] theorem modSection_freeCount (b : Nat) (f : Section → Section) (s : State) : (modSection b f s).freeCount = s.freeCount := rfl
@[simp] theorem modSection_pending (b : Nat) (f : Section → Section) (s : State) : (modSection b f s).pending = s.pending := rfl

/-! `modCarriage` writes `pds` alone. -/
@[simp] theorem modCarriage_part (c : Carriage) (f : CarriageUnit → CarriageUnit) (s : State) : (modCarriage c f s).part = s.part := by cases c <;> rfl
@[simp] theorem modCarriage_sections (c : Carriage) (f : CarriageUnit → CarriageUnit) (s : State) : (modCarriage c f s).sections = s.sections := by cases c <;> rfl
@[simp] theorem modCarriage_spindles (c : Carriage) (f : CarriageUnit → CarriageUnit) (s : State) : (modCarriage c f s).spindles = s.spindles := by cases c <;> rfl
@[simp] theorem modCarriage_detection (c : Carriage) (f : CarriageUnit → CarriageUnit) (s : State) : (modCarriage c f s).detection = s.detection := by cases c <;> rfl
@[simp] theorem modCarriage_pcu (c : Carriage) (f : CarriageUnit → CarriageUnit) (s : State) : (modCarriage c f s).pcu = s.pcu := by cases c <;> rfl
@[simp] theorem modCarriage_pool (c : Carriage) (f : CarriageUnit → CarriageUnit) (s : State) : (modCarriage c f s).pool = s.pool := by cases c <;> rfl
@[simp] theorem modCarriage_slc (c : Carriage) (f : CarriageUnit → CarriageUnit) (s : State) : (modCarriage c f s).slc = s.slc := by cases c <;> rfl
@[simp] theorem modCarriage_rvm (c : Carriage) (f : CarriageUnit → CarriageUnit) (s : State) : (modCarriage c f s).rvm = s.rvm := by cases c <;> rfl
@[simp] theorem modCarriage_dfs (c : Carriage) (f : CarriageUnit → CarriageUnit) (s : State) : (modCarriage c f s).dfs = s.dfs := by cases c <;> rfl
@[simp] theorem modCarriage_sgv (c : Carriage) (f : CarriageUnit → CarriageUnit) (s : State) : (modCarriage c f s).sgv = s.sgv := by cases c <;> rfl
@[simp] theorem modCarriage_scs (c : Carriage) (f : CarriageUnit → CarriageUnit) (s : State) : (modCarriage c f s).scs = s.scs := by cases c <;> rfl
@[simp] theorem modCarriage_fli (c : Carriage) (f : CarriageUnit → CarriageUnit) (s : State) : (modCarriage c f s).fli = s.fli := by cases c <;> rfl
@[simp] theorem modCarriage_mfh (c : Carriage) (f : CarriageUnit → CarriageUnit) (s : State) : (modCarriage c f s).mfh = s.mfh := by cases c <;> rfl
@[simp] theorem modCarriage_freeCount (c : Carriage) (f : CarriageUnit → CarriageUnit) (s : State) : (modCarriage c f s).freeCount = s.freeCount := by cases c <;> rfl
@[simp] theorem modCarriage_pending (c : Carriage) (f : CarriageUnit → CarriageUnit) (s : State) : (modCarriage c f s).pending = s.pending := by cases c <;> rfl

/-! `modFrame` writes `pcu` alone. -/
@[simp] theorem modFrame_part (f : FrameCounters → FrameCounters) (s : State) : (modFrame f s).part = s.part := rfl
@[simp] theorem modFrame_sections (f : FrameCounters → FrameCounters) (s : State) : (modFrame f s).sections = s.sections := rfl
@[simp] theorem modFrame_spindles (f : FrameCounters → FrameCounters) (s : State) : (modFrame f s).spindles = s.spindles := rfl
@[simp] theorem modFrame_detection (f : FrameCounters → FrameCounters) (s : State) : (modFrame f s).detection = s.detection := rfl
@[simp] theorem modFrame_pool (f : FrameCounters → FrameCounters) (s : State) : (modFrame f s).pool = s.pool := rfl
@[simp] theorem modFrame_pds (f : FrameCounters → FrameCounters) (s : State) : (modFrame f s).pds = s.pds := rfl
@[simp] theorem modFrame_slc (f : FrameCounters → FrameCounters) (s : State) : (modFrame f s).slc = s.slc := rfl
@[simp] theorem modFrame_rvm (f : FrameCounters → FrameCounters) (s : State) : (modFrame f s).rvm = s.rvm := rfl
@[simp] theorem modFrame_dfs (f : FrameCounters → FrameCounters) (s : State) : (modFrame f s).dfs = s.dfs := rfl
@[simp] theorem modFrame_sgv (f : FrameCounters → FrameCounters) (s : State) : (modFrame f s).sgv = s.sgv := rfl
@[simp] theorem modFrame_scs (f : FrameCounters → FrameCounters) (s : State) : (modFrame f s).scs = s.scs := rfl
@[simp] theorem modFrame_fli (f : FrameCounters → FrameCounters) (s : State) : (modFrame f s).fli = s.fli := rfl
@[simp] theorem modFrame_mfh (f : FrameCounters → FrameCounters) (s : State) : (modFrame f s).mfh = s.mfh := rfl
@[simp] theorem modFrame_freeCount (f : FrameCounters → FrameCounters) (s : State) : (modFrame f s).freeCount = s.freeCount := rfl
@[simp] theorem modFrame_pending (f : FrameCounters → FrameCounters) (s : State) : (modFrame f s).pending = s.pending := rfl

/-! `setTrim` writes `scs` alone. -/
@[simp] theorem setTrim_part (t : Trim) (s : State) : (setTrim t s).part = s.part := rfl
@[simp] theorem setTrim_sections (t : Trim) (s : State) : (setTrim t s).sections = s.sections := rfl
@[simp] theorem setTrim_spindles (t : Trim) (s : State) : (setTrim t s).spindles = s.spindles := rfl
@[simp] theorem setTrim_detection (t : Trim) (s : State) : (setTrim t s).detection = s.detection := rfl
@[simp] theorem setTrim_pcu (t : Trim) (s : State) : (setTrim t s).pcu = s.pcu := rfl
@[simp] theorem setTrim_pool (t : Trim) (s : State) : (setTrim t s).pool = s.pool := rfl
@[simp] theorem setTrim_pds (t : Trim) (s : State) : (setTrim t s).pds = s.pds := rfl
@[simp] theorem setTrim_slc (t : Trim) (s : State) : (setTrim t s).slc = s.slc := rfl
@[simp] theorem setTrim_rvm (t : Trim) (s : State) : (setTrim t s).rvm = s.rvm := rfl
@[simp] theorem setTrim_dfs (t : Trim) (s : State) : (setTrim t s).dfs = s.dfs := rfl
@[simp] theorem setTrim_sgv (t : Trim) (s : State) : (setTrim t s).sgv = s.sgv := rfl
@[simp] theorem setTrim_fli (t : Trim) (s : State) : (setTrim t s).fli = s.fli := rfl
@[simp] theorem setTrim_mfh (t : Trim) (s : State) : (setTrim t s).mfh = s.mfh := rfl
@[simp] theorem setTrim_freeCount (t : Trim) (s : State) : (setTrim t s).freeCount = s.freeCount := rfl
@[simp] theorem setTrim_pending (t : Trim) (s : State) : (setTrim t s).pending = s.pending := rfl

/-! `setSub` writes `scs` alone. -/
@[simp] theorem setSub_part (n : Nat) (s : State) : (setSub n s).part = s.part := rfl
@[simp] theorem setSub_sections (n : Nat) (s : State) : (setSub n s).sections = s.sections := rfl
@[simp] theorem setSub_spindles (n : Nat) (s : State) : (setSub n s).spindles = s.spindles := rfl
@[simp] theorem setSub_detection (n : Nat) (s : State) : (setSub n s).detection = s.detection := rfl
@[simp] theorem setSub_pcu (n : Nat) (s : State) : (setSub n s).pcu = s.pcu := rfl
@[simp] theorem setSub_pool (n : Nat) (s : State) : (setSub n s).pool = s.pool := rfl
@[simp] theorem setSub_pds (n : Nat) (s : State) : (setSub n s).pds = s.pds := rfl
@[simp] theorem setSub_slc (n : Nat) (s : State) : (setSub n s).slc = s.slc := rfl
@[simp] theorem setSub_rvm (n : Nat) (s : State) : (setSub n s).rvm = s.rvm := rfl
@[simp] theorem setSub_dfs (n : Nat) (s : State) : (setSub n s).dfs = s.dfs := rfl
@[simp] theorem setSub_sgv (n : Nat) (s : State) : (setSub n s).sgv = s.sgv := rfl
@[simp] theorem setSub_fli (n : Nat) (s : State) : (setSub n s).fli = s.fli := rfl
@[simp] theorem setSub_mfh (n : Nat) (s : State) : (setSub n s).mfh = s.mfh := rfl
@[simp] theorem setSub_freeCount (n : Nat) (s : State) : (setSub n s).freeCount = s.freeCount := rfl
@[simp] theorem setSub_pending (n : Nat) (s : State) : (setSub n s).pending = s.pending := rfl

/-! `setLine` writes `slc` alone. -/
@[simp] theorem setLine_part (l : LineState) (s : State) : (setLine l s).part = s.part := rfl
@[simp] theorem setLine_sections (l : LineState) (s : State) : (setLine l s).sections = s.sections := rfl
@[simp] theorem setLine_spindles (l : LineState) (s : State) : (setLine l s).spindles = s.spindles := rfl
@[simp] theorem setLine_detection (l : LineState) (s : State) : (setLine l s).detection = s.detection := rfl
@[simp] theorem setLine_pcu (l : LineState) (s : State) : (setLine l s).pcu = s.pcu := rfl
@[simp] theorem setLine_pool (l : LineState) (s : State) : (setLine l s).pool = s.pool := rfl
@[simp] theorem setLine_pds (l : LineState) (s : State) : (setLine l s).pds = s.pds := rfl
@[simp] theorem setLine_rvm (l : LineState) (s : State) : (setLine l s).rvm = s.rvm := rfl
@[simp] theorem setLine_dfs (l : LineState) (s : State) : (setLine l s).dfs = s.dfs := rfl
@[simp] theorem setLine_sgv (l : LineState) (s : State) : (setLine l s).sgv = s.sgv := rfl
@[simp] theorem setLine_scs (l : LineState) (s : State) : (setLine l s).scs = s.scs := rfl
@[simp] theorem setLine_fli (l : LineState) (s : State) : (setLine l s).fli = s.fli := rfl
@[simp] theorem setLine_mfh (l : LineState) (s : State) : (setLine l s).mfh = s.mfh := rfl
@[simp] theorem setLine_freeCount (l : LineState) (s : State) : (setLine l s).freeCount = s.freeCount := rfl
@[simp] theorem setLine_pending (l : LineState) (s : State) : (setLine l s).pending = s.pending := rfl

/-! `setWanting` writes `rvm` alone. -/
@[simp] theorem setWanting_part (b : Nat) (v : Bool) (s : State) : (setWanting b v s).part = s.part := rfl
@[simp] theorem setWanting_sections (b : Nat) (v : Bool) (s : State) : (setWanting b v s).sections = s.sections := rfl
@[simp] theorem setWanting_spindles (b : Nat) (v : Bool) (s : State) : (setWanting b v s).spindles = s.spindles := rfl
@[simp] theorem setWanting_detection (b : Nat) (v : Bool) (s : State) : (setWanting b v s).detection = s.detection := rfl
@[simp] theorem setWanting_pcu (b : Nat) (v : Bool) (s : State) : (setWanting b v s).pcu = s.pcu := rfl
@[simp] theorem setWanting_pool (b : Nat) (v : Bool) (s : State) : (setWanting b v s).pool = s.pool := rfl
@[simp] theorem setWanting_pds (b : Nat) (v : Bool) (s : State) : (setWanting b v s).pds = s.pds := rfl
@[simp] theorem setWanting_slc (b : Nat) (v : Bool) (s : State) : (setWanting b v s).slc = s.slc := rfl
@[simp] theorem setWanting_dfs (b : Nat) (v : Bool) (s : State) : (setWanting b v s).dfs = s.dfs := rfl
@[simp] theorem setWanting_sgv (b : Nat) (v : Bool) (s : State) : (setWanting b v s).sgv = s.sgv := rfl
@[simp] theorem setWanting_scs (b : Nat) (v : Bool) (s : State) : (setWanting b v s).scs = s.scs := rfl
@[simp] theorem setWanting_fli (b : Nat) (v : Bool) (s : State) : (setWanting b v s).fli = s.fli := rfl
@[simp] theorem setWanting_mfh (b : Nat) (v : Bool) (s : State) : (setWanting b v s).mfh = s.mfh := rfl
@[simp] theorem setWanting_freeCount (b : Nat) (v : Bool) (s : State) : (setWanting b v s).freeCount = s.freeCount := rfl
@[simp] theorem setWanting_pending (b : Nat) (v : Bool) (s : State) : (setWanting b v s).pending = s.pending := rfl

/-! `setParkMark` writes `dfs` alone. -/
@[simp] theorem setParkMark_part (c : Carriage) (v : Option Bool) (s : State) : (setParkMark c v s).part = s.part := by cases c <;> rfl
@[simp] theorem setParkMark_sections (c : Carriage) (v : Option Bool) (s : State) : (setParkMark c v s).sections = s.sections := by cases c <;> rfl
@[simp] theorem setParkMark_spindles (c : Carriage) (v : Option Bool) (s : State) : (setParkMark c v s).spindles = s.spindles := by cases c <;> rfl
@[simp] theorem setParkMark_detection (c : Carriage) (v : Option Bool) (s : State) : (setParkMark c v s).detection = s.detection := by cases c <;> rfl
@[simp] theorem setParkMark_pcu (c : Carriage) (v : Option Bool) (s : State) : (setParkMark c v s).pcu = s.pcu := by cases c <;> rfl
@[simp] theorem setParkMark_pool (c : Carriage) (v : Option Bool) (s : State) : (setParkMark c v s).pool = s.pool := by cases c <;> rfl
@[simp] theorem setParkMark_pds (c : Carriage) (v : Option Bool) (s : State) : (setParkMark c v s).pds = s.pds := by cases c <;> rfl
@[simp] theorem setParkMark_slc (c : Carriage) (v : Option Bool) (s : State) : (setParkMark c v s).slc = s.slc := by cases c <;> rfl
@[simp] theorem setParkMark_rvm (c : Carriage) (v : Option Bool) (s : State) : (setParkMark c v s).rvm = s.rvm := by cases c <;> rfl
@[simp] theorem setParkMark_sgv (c : Carriage) (v : Option Bool) (s : State) : (setParkMark c v s).sgv = s.sgv := by cases c <;> rfl
@[simp] theorem setParkMark_scs (c : Carriage) (v : Option Bool) (s : State) : (setParkMark c v s).scs = s.scs := by cases c <;> rfl
@[simp] theorem setParkMark_fli (c : Carriage) (v : Option Bool) (s : State) : (setParkMark c v s).fli = s.fli := by cases c <;> rfl
@[simp] theorem setParkMark_mfh (c : Carriage) (v : Option Bool) (s : State) : (setParkMark c v s).mfh = s.mfh := by cases c <;> rfl
@[simp] theorem setParkMark_freeCount (c : Carriage) (v : Option Bool) (s : State) : (setParkMark c v s).freeCount = s.freeCount := by cases c <;> rfl
@[simp] theorem setParkMark_pending (c : Carriage) (v : Option Bool) (s : State) : (setParkMark c v s).pending = s.pending := by cases c <;> rfl

/-! `setLocked` writes `mfh` alone. -/
@[simp] theorem setLocked_part (v : Bool) (s : State) : (setLocked v s).part = s.part := rfl
@[simp] theorem setLocked_sections (v : Bool) (s : State) : (setLocked v s).sections = s.sections := rfl
@[simp] theorem setLocked_spindles (v : Bool) (s : State) : (setLocked v s).spindles = s.spindles := rfl
@[simp] theorem setLocked_detection (v : Bool) (s : State) : (setLocked v s).detection = s.detection := rfl
@[simp] theorem setLocked_pcu (v : Bool) (s : State) : (setLocked v s).pcu = s.pcu := rfl
@[simp] theorem setLocked_pool (v : Bool) (s : State) : (setLocked v s).pool = s.pool := rfl
@[simp] theorem setLocked_pds (v : Bool) (s : State) : (setLocked v s).pds = s.pds := rfl
@[simp] theorem setLocked_slc (v : Bool) (s : State) : (setLocked v s).slc = s.slc := rfl
@[simp] theorem setLocked_rvm (v : Bool) (s : State) : (setLocked v s).rvm = s.rvm := rfl
@[simp] theorem setLocked_dfs (v : Bool) (s : State) : (setLocked v s).dfs = s.dfs := rfl
@[simp] theorem setLocked_sgv (v : Bool) (s : State) : (setLocked v s).sgv = s.sgv := rfl
@[simp] theorem setLocked_scs (v : Bool) (s : State) : (setLocked v s).scs = s.scs := rfl
@[simp] theorem setLocked_fli (v : Bool) (s : State) : (setLocked v s).fli = s.fli := rfl
@[simp] theorem setLocked_freeCount (v : Bool) (s : State) : (setLocked v s).freeCount = s.freeCount := rfl
@[simp] theorem setLocked_pending (v : Bool) (s : State) : (setLocked v s).pending = s.pending := rfl

/-! `clearLive` writes `mfh` alone. -/
@[simp] theorem clearLive_part (c : Cond) (s : State) : (clearLive c s).part = s.part := rfl
@[simp] theorem clearLive_sections (c : Cond) (s : State) : (clearLive c s).sections = s.sections := rfl
@[simp] theorem clearLive_spindles (c : Cond) (s : State) : (clearLive c s).spindles = s.spindles := rfl
@[simp] theorem clearLive_detection (c : Cond) (s : State) : (clearLive c s).detection = s.detection := rfl
@[simp] theorem clearLive_pcu (c : Cond) (s : State) : (clearLive c s).pcu = s.pcu := rfl
@[simp] theorem clearLive_pool (c : Cond) (s : State) : (clearLive c s).pool = s.pool := rfl
@[simp] theorem clearLive_pds (c : Cond) (s : State) : (clearLive c s).pds = s.pds := rfl
@[simp] theorem clearLive_slc (c : Cond) (s : State) : (clearLive c s).slc = s.slc := rfl
@[simp] theorem clearLive_rvm (c : Cond) (s : State) : (clearLive c s).rvm = s.rvm := rfl
@[simp] theorem clearLive_dfs (c : Cond) (s : State) : (clearLive c s).dfs = s.dfs := rfl
@[simp] theorem clearLive_sgv (c : Cond) (s : State) : (clearLive c s).sgv = s.sgv := rfl
@[simp] theorem clearLive_scs (c : Cond) (s : State) : (clearLive c s).scs = s.scs := rfl
@[simp] theorem clearLive_fli (c : Cond) (s : State) : (clearLive c s).fli = s.fli := rfl
@[simp] theorem clearLive_freeCount (c : Cond) (s : State) : (clearLive c s).freeCount = s.freeCount := rfl
@[simp] theorem clearLive_pending (c : Cond) (s : State) : (clearLive c s).pending = s.pending := rfl

/-! `setFlags` writes `mfh` alone. -/
@[simp] theorem setFlags_part (c : Cond) (s : State) : (setFlags c s).part = s.part := rfl
@[simp] theorem setFlags_sections (c : Cond) (s : State) : (setFlags c s).sections = s.sections := rfl
@[simp] theorem setFlags_spindles (c : Cond) (s : State) : (setFlags c s).spindles = s.spindles := rfl
@[simp] theorem setFlags_detection (c : Cond) (s : State) : (setFlags c s).detection = s.detection := rfl
@[simp] theorem setFlags_pcu (c : Cond) (s : State) : (setFlags c s).pcu = s.pcu := rfl
@[simp] theorem setFlags_pool (c : Cond) (s : State) : (setFlags c s).pool = s.pool := rfl
@[simp] theorem setFlags_pds (c : Cond) (s : State) : (setFlags c s).pds = s.pds := rfl
@[simp] theorem setFlags_slc (c : Cond) (s : State) : (setFlags c s).slc = s.slc := rfl
@[simp] theorem setFlags_rvm (c : Cond) (s : State) : (setFlags c s).rvm = s.rvm := rfl
@[simp] theorem setFlags_dfs (c : Cond) (s : State) : (setFlags c s).dfs = s.dfs := rfl
@[simp] theorem setFlags_sgv (c : Cond) (s : State) : (setFlags c s).sgv = s.sgv := rfl
@[simp] theorem setFlags_scs (c : Cond) (s : State) : (setFlags c s).scs = s.scs := rfl
@[simp] theorem setFlags_fli (c : Cond) (s : State) : (setFlags c s).fli = s.fli := rfl
@[simp] theorem setFlags_freeCount (c : Cond) (s : State) : (setFlags c s).freeCount = s.freeCount := rfl
@[simp] theorem setFlags_pending (c : Cond) (s : State) : (setFlags c s).pending = s.pending := rfl

/-! `nextNoticeNumber` writes `mfh` alone. -/
@[simp] theorem nextNoticeNumber_part (s : State) : (nextNoticeNumber s).part = s.part := rfl
@[simp] theorem nextNoticeNumber_sections (s : State) : (nextNoticeNumber s).sections = s.sections := rfl
@[simp] theorem nextNoticeNumber_spindles (s : State) : (nextNoticeNumber s).spindles = s.spindles := rfl
@[simp] theorem nextNoticeNumber_detection (s : State) : (nextNoticeNumber s).detection = s.detection := rfl
@[simp] theorem nextNoticeNumber_pcu (s : State) : (nextNoticeNumber s).pcu = s.pcu := rfl
@[simp] theorem nextNoticeNumber_pool (s : State) : (nextNoticeNumber s).pool = s.pool := rfl
@[simp] theorem nextNoticeNumber_pds (s : State) : (nextNoticeNumber s).pds = s.pds := rfl
@[simp] theorem nextNoticeNumber_slc (s : State) : (nextNoticeNumber s).slc = s.slc := rfl
@[simp] theorem nextNoticeNumber_rvm (s : State) : (nextNoticeNumber s).rvm = s.rvm := rfl
@[simp] theorem nextNoticeNumber_dfs (s : State) : (nextNoticeNumber s).dfs = s.dfs := rfl
@[simp] theorem nextNoticeNumber_sgv (s : State) : (nextNoticeNumber s).sgv = s.sgv := rfl
@[simp] theorem nextNoticeNumber_scs (s : State) : (nextNoticeNumber s).scs = s.scs := rfl
@[simp] theorem nextNoticeNumber_fli (s : State) : (nextNoticeNumber s).fli = s.fli := rfl
@[simp] theorem nextNoticeNumber_freeCount (s : State) : (nextNoticeNumber s).freeCount = s.freeCount := rfl
@[simp] theorem nextNoticeNumber_pending (s : State) : (nextNoticeNumber s).pending = s.pending := rfl

/-! `addLost` writes `pcu` alone. -/
@[simp] theorem addLost_part (s : State) : (addLost s).part = s.part := rfl
@[simp] theorem addLost_sections (s : State) : (addLost s).sections = s.sections := rfl
@[simp] theorem addLost_spindles (s : State) : (addLost s).spindles = s.spindles := rfl
@[simp] theorem addLost_detection (s : State) : (addLost s).detection = s.detection := rfl
@[simp] theorem addLost_pool (s : State) : (addLost s).pool = s.pool := rfl
@[simp] theorem addLost_pds (s : State) : (addLost s).pds = s.pds := rfl
@[simp] theorem addLost_slc (s : State) : (addLost s).slc = s.slc := rfl
@[simp] theorem addLost_rvm (s : State) : (addLost s).rvm = s.rvm := rfl
@[simp] theorem addLost_dfs (s : State) : (addLost s).dfs = s.dfs := rfl
@[simp] theorem addLost_sgv (s : State) : (addLost s).sgv = s.sgv := rfl
@[simp] theorem addLost_scs (s : State) : (addLost s).scs = s.scs := rfl
@[simp] theorem addLost_fli (s : State) : (addLost s).fli = s.fli := rfl
@[simp] theorem addLost_mfh (s : State) : (addLost s).mfh = s.mfh := rfl
@[simp] theorem addLost_freeCount (s : State) : (addLost s).freeCount = s.freeCount := rfl
@[simp] theorem addLost_pending (s : State) : (addLost s).pending = s.pending := rfl

/-! `refreshLamps` writes `mfh` alone. -/
@[simp] theorem refreshLamps_part (s : State) : (refreshLamps s).part = s.part := rfl
@[simp] theorem refreshLamps_sections (s : State) : (refreshLamps s).sections = s.sections := rfl
@[simp] theorem refreshLamps_spindles (s : State) : (refreshLamps s).spindles = s.spindles := rfl
@[simp] theorem refreshLamps_detection (s : State) : (refreshLamps s).detection = s.detection := rfl
@[simp] theorem refreshLamps_pcu (s : State) : (refreshLamps s).pcu = s.pcu := rfl
@[simp] theorem refreshLamps_pool (s : State) : (refreshLamps s).pool = s.pool := rfl
@[simp] theorem refreshLamps_pds (s : State) : (refreshLamps s).pds = s.pds := rfl
@[simp] theorem refreshLamps_slc (s : State) : (refreshLamps s).slc = s.slc := rfl
@[simp] theorem refreshLamps_rvm (s : State) : (refreshLamps s).rvm = s.rvm := rfl
@[simp] theorem refreshLamps_dfs (s : State) : (refreshLamps s).dfs = s.dfs := rfl
@[simp] theorem refreshLamps_sgv (s : State) : (refreshLamps s).sgv = s.sgv := rfl
@[simp] theorem refreshLamps_scs (s : State) : (refreshLamps s).scs = s.scs := rfl
@[simp] theorem refreshLamps_fli (s : State) : (refreshLamps s).fli = s.fli := rfl
@[simp] theorem refreshLamps_freeCount (s : State) : (refreshLamps s).freeCount = s.freeCount := rfl
@[simp] theorem refreshLamps_pending (s : State) : (refreshLamps s).pending = s.pending := rfl

/-! `modLamps` writes `mfh` alone. -/
@[simp] theorem modLamps_part (f : Lamps → Lamps) (s : State) : (modLamps f s).part = s.part := rfl
@[simp] theorem modLamps_sections (f : Lamps → Lamps) (s : State) : (modLamps f s).sections = s.sections := rfl
@[simp] theorem modLamps_spindles (f : Lamps → Lamps) (s : State) : (modLamps f s).spindles = s.spindles := rfl
@[simp] theorem modLamps_detection (f : Lamps → Lamps) (s : State) : (modLamps f s).detection = s.detection := rfl
@[simp] theorem modLamps_pcu (f : Lamps → Lamps) (s : State) : (modLamps f s).pcu = s.pcu := rfl
@[simp] theorem modLamps_pool (f : Lamps → Lamps) (s : State) : (modLamps f s).pool = s.pool := rfl
@[simp] theorem modLamps_pds (f : Lamps → Lamps) (s : State) : (modLamps f s).pds = s.pds := rfl
@[simp] theorem modLamps_slc (f : Lamps → Lamps) (s : State) : (modLamps f s).slc = s.slc := rfl
@[simp] theorem modLamps_rvm (f : Lamps → Lamps) (s : State) : (modLamps f s).rvm = s.rvm := rfl
@[simp] theorem modLamps_dfs (f : Lamps → Lamps) (s : State) : (modLamps f s).dfs = s.dfs := rfl
@[simp] theorem modLamps_sgv (f : Lamps → Lamps) (s : State) : (modLamps f s).sgv = s.sgv := rfl
@[simp] theorem modLamps_scs (f : Lamps → Lamps) (s : State) : (modLamps f s).scs = s.scs := rfl
@[simp] theorem modLamps_fli (f : Lamps → Lamps) (s : State) : (modLamps f s).fli = s.fli := rfl
@[simp] theorem modLamps_freeCount (f : Lamps → Lamps) (s : State) : (modLamps f s).freeCount = s.freeCount := rfl
@[simp] theorem modLamps_pending (f : Lamps → Lamps) (s : State) : (modLamps f s).pending = s.pending := rfl

/-! `dropMarks` writes `dfs` alone. -/
@[simp] theorem dropMarks_part (s : State) : (dropMarks s).part = s.part := rfl
@[simp] theorem dropMarks_sections (s : State) : (dropMarks s).sections = s.sections := rfl
@[simp] theorem dropMarks_spindles (s : State) : (dropMarks s).spindles = s.spindles := rfl
@[simp] theorem dropMarks_detection (s : State) : (dropMarks s).detection = s.detection := rfl
@[simp] theorem dropMarks_pcu (s : State) : (dropMarks s).pcu = s.pcu := rfl
@[simp] theorem dropMarks_pool (s : State) : (dropMarks s).pool = s.pool := rfl
@[simp] theorem dropMarks_pds (s : State) : (dropMarks s).pds = s.pds := rfl
@[simp] theorem dropMarks_slc (s : State) : (dropMarks s).slc = s.slc := rfl
@[simp] theorem dropMarks_rvm (s : State) : (dropMarks s).rvm = s.rvm := rfl
@[simp] theorem dropMarks_sgv (s : State) : (dropMarks s).sgv = s.sgv := rfl
@[simp] theorem dropMarks_scs (s : State) : (dropMarks s).scs = s.scs := rfl
@[simp] theorem dropMarks_fli (s : State) : (dropMarks s).fli = s.fli := rfl
@[simp] theorem dropMarks_mfh (s : State) : (dropMarks s).mfh = s.mfh := rfl
@[simp] theorem dropMarks_freeCount (s : State) : (dropMarks s).freeCount = s.freeCount := rfl
@[simp] theorem dropMarks_pending (s : State) : (dropMarks s).pending = s.pending := rfl

/-! `dropDoffTimer` writes `dfs` alone. -/
@[simp] theorem dropDoffTimer_part (s : State) : (dropDoffTimer s).part = s.part := rfl
@[simp] theorem dropDoffTimer_sections (s : State) : (dropDoffTimer s).sections = s.sections := rfl
@[simp] theorem dropDoffTimer_spindles (s : State) : (dropDoffTimer s).spindles = s.spindles := rfl
@[simp] theorem dropDoffTimer_detection (s : State) : (dropDoffTimer s).detection = s.detection := rfl
@[simp] theorem dropDoffTimer_pcu (s : State) : (dropDoffTimer s).pcu = s.pcu := rfl
@[simp] theorem dropDoffTimer_pool (s : State) : (dropDoffTimer s).pool = s.pool := rfl
@[simp] theorem dropDoffTimer_pds (s : State) : (dropDoffTimer s).pds = s.pds := rfl
@[simp] theorem dropDoffTimer_slc (s : State) : (dropDoffTimer s).slc = s.slc := rfl
@[simp] theorem dropDoffTimer_rvm (s : State) : (dropDoffTimer s).rvm = s.rvm := rfl
@[simp] theorem dropDoffTimer_sgv (s : State) : (dropDoffTimer s).sgv = s.sgv := rfl
@[simp] theorem dropDoffTimer_scs (s : State) : (dropDoffTimer s).scs = s.scs := rfl
@[simp] theorem dropDoffTimer_fli (s : State) : (dropDoffTimer s).fli = s.fli := rfl
@[simp] theorem dropDoffTimer_mfh (s : State) : (dropDoffTimer s).mfh = s.mfh := rfl
@[simp] theorem dropDoffTimer_freeCount (s : State) : (dropDoffTimer s).freeCount = s.freeCount := rfl
@[simp] theorem dropDoffTimer_pending (s : State) : (dropDoffTimer s).pending = s.pending := rfl

/-! `armGrace` writes `dfs` alone. -/
@[simp] theorem armGrace_part (s : State) : (armGrace s).part = s.part := rfl
@[simp] theorem armGrace_sections (s : State) : (armGrace s).sections = s.sections := rfl
@[simp] theorem armGrace_spindles (s : State) : (armGrace s).spindles = s.spindles := rfl
@[simp] theorem armGrace_detection (s : State) : (armGrace s).detection = s.detection := rfl
@[simp] theorem armGrace_pcu (s : State) : (armGrace s).pcu = s.pcu := rfl
@[simp] theorem armGrace_pool (s : State) : (armGrace s).pool = s.pool := rfl
@[simp] theorem armGrace_pds (s : State) : (armGrace s).pds = s.pds := rfl
@[simp] theorem armGrace_slc (s : State) : (armGrace s).slc = s.slc := rfl
@[simp] theorem armGrace_rvm (s : State) : (armGrace s).rvm = s.rvm := rfl
@[simp] theorem armGrace_sgv (s : State) : (armGrace s).sgv = s.sgv := rfl
@[simp] theorem armGrace_scs (s : State) : (armGrace s).scs = s.scs := rfl
@[simp] theorem armGrace_fli (s : State) : (armGrace s).fli = s.fli := rfl
@[simp] theorem armGrace_mfh (s : State) : (armGrace s).mfh = s.mfh := rfl
@[simp] theorem armGrace_freeCount (s : State) : (armGrace s).freeCount = s.freeCount := rfl
@[simp] theorem armGrace_pending (s : State) : (armGrace s).pending = s.pending := rfl

/-! What the updates write. -/

@[simp] theorem setRecord_records (r : Nat) (j : Option JobRecord) (s : State) :
    (setRecord r j s).pool.records = s.pool.records.set r j := rfl
@[simp] theorem setRecord_reserves (r : Nat) (j : Option JobRecord) (s : State) :
    (setRecord r j s).pool.reserves = s.pool.reserves := rfl
@[simp] theorem setRecord_staged (r : Nat) (j : Option JobRecord) (s : State) :
    (setRecord r j s).pool.staged = s.pool.staged := rfl
@[simp] theorem setPiece_records (r : Nat) (p : PieceRecord) (s : State) :
    (setPiece r p s).pool.records = s.pool.records.set r (some (.piece p)) := rfl
@[simp] theorem setRequest_records (r : Nat) (q : BayRequest) (s : State) :
    (setRequest r q s).pool.records = s.pool.records.set r (some (.bay q)) := rfl
@[simp] theorem modSpindle_spindles (n : Nat) (f : Spindle → Spindle) (s : State) :
    (modSpindle n f s).spindles = s.spindles.modify (n - 1) f := rfl
@[simp] theorem setState_spindles (n : Nat) (st : SpindleState) (s : State) :
    (setState n st s).spindles = s.spindles.modify (n - 1) fun e => { e with state := st } := rfl
@[simp] theorem modSection_sections (b : Nat) (f : Section → Section) (s : State) :
    (modSection b f s).sections = s.sections.modify (b - 1) f := rfl
@[simp] theorem modFrame_frame (f : FrameCounters → FrameCounters) (s : State) :
    (modFrame f s).pcu.frame = f s.pcu.frame := rfl
@[simp] theorem setTrim_trim (t : Trim) (s : State) : (setTrim t s).scs.trim = t := rfl
@[simp] theorem setTrim_sub (t : Trim) (s : State) : (setTrim t s).scs.sub = s.scs.sub := rfl
@[simp] theorem setSub_sub (n : Nat) (s : State) : (setSub n s).scs.sub = n := rfl
@[simp] theorem setSub_trim (n : Nat) (s : State) : (setSub n s).scs.trim = s.scs.trim := rfl
@[simp] theorem setLine_line (l : LineState) (s : State) : (setLine l s).slc.line = l := rfl
@[simp] theorem setLocked_locked (v : Bool) (s : State) : (setLocked v s).mfh.lockedThisShift = v := rfl

/-! The flags, the four agents' values and the records of the pool, read after a write. -/

@[simp] theorem CondFlags.get_put_same (f : CondFlags) (c : Cond) (v : Bool) : (f.put c v).get c = v := by cases c <;> rfl

theorem CondFlags.get_put_other (f : CondFlags) {c d : Cond} (v : Bool) (h : d ≠ c) : (f.put c v).get d = f.get d := by
  cases c <;> cases d <;> first | rfl | exact absurd rfl h

@[simp] theorem PerAgent.get_put_same {α : Type} (p : PerAgent α) (a : Agent) (v : α) : (p.put a v).get a = v := by
  cases a <;> rfl

theorem PerAgent.get_put_other {α : Type} (p : PerAgent α) {a b : Agent} (v : α) (h : b ≠ a) :
    (p.put a v).get b = p.get b := by
  cases a <;> cases b <;> first | rfl | exact absurd rfl h

theorem recordAt_setRecord_same {r : Nat} (j : Option JobRecord) {s : State} (h : r < s.pool.records.length) :
    recordAt r (setRecord r j s) = j := by
  simp [recordAt, h]

theorem recordAt_setRecord_other {r q : Nat} (j : Option JobRecord) (s : State) (h : q ≠ r) :
    recordAt q (setRecord r j s) = recordAt q s := by
  simp [recordAt, h.symm]

theorem carriage_modCarriage_same (c : Carriage) (f : CarriageUnit → CarriageUnit) (s : State) :
    carriage c (modCarriage c f s) = f (carriage c s) := by
  cases c <;> rfl

theorem carriage_modCarriage_other {c d : Carriage} (f : CarriageUnit → CarriageUnit) (s : State) (h : d ≠ c) :
    carriage d (modCarriage c f s) = carriage d s := by
  cases c <;> cases d <;> first | rfl | exact absurd rfl h

end Sys2Proof.Machine
end

