-- ==== Sys2Proof/Laws/Frames.lean ====
section
/-! SUPPORT. What each shared operation can touch, said once: `<operation>_kept` names the areas it may change, and every
other area of the state holds afterwards what it held before. -/

namespace Sys2Proof.Safety

set_option Elab.async false

open Sys2Proof.Machine

/-! ## Composing frames -/

/-- Every area of `A` is one of `C`. -/
def within (A C : List Area) : Bool := A.all fun a => C.contains a

theorem mem_of_within {A C : List Area} (h : within A C = true) {a : Area} (ha : a ∈ A) : a ∈ C := by
  have := List.all_eq_true.mp h a ha
  simpa using this

theorem Area.same_refl (a : Area) (s : State) : a.same s s := by
  cases a <;> first | exact rfl | exact ⟨rfl, rfl⟩ | exact fun _ => rfl

theorem Area.same_trans {a : Area} {s t u : State} (h : a.same s t) (k : a.same t u) : a.same s u := by
  cases a <;> first
    | exact Eq.trans k h
    | exact ⟨k.1.trans h.1, k.2.trans h.2⟩
    | exact fun c => (k c).trans (h c)

theorem Kept.refl (C : List Area) (s : State) : Kept C s s := ⟨fun a _ => a.same_refl s⟩

theorem Kept.mono {A C : List Area} {s t : State} (h : Kept A s t) (hs : within A C = true := by decide) : Kept C s t :=
  ⟨fun a ha => h.same a fun hm => ha (mem_of_within hs hm)⟩

theorem Kept.trans {C : List Area} {s t u : State} (h : Kept C s t) (k : Kept C t u) : Kept C s u :=
  ⟨fun a ha => Area.same_trans (h.same a ha) (k.same a ha)⟩

theorem Kept.of_eq {C : List Area} {s t : State} (h : t = s) : Kept C s t := h ▸ Kept.refl C s

theorem Kept.ite {C : List Area} {s t u : State} {p : Prop} {_ : Decidable p} (h : Kept C s t) (k : Kept C s u) :
    Kept C s (if p then t else u) := by
  split
  · exact h
  · exact k

/-- The same, for a condition that is given. -/
theorem Kept.cond {C : List Area} {s t u : State} (p : Prop) [Decidable p] (h : Kept C s t) (k : Kept C s u) :
    Kept C s (if p then t else u) := Kept.ite h k

theorem Kept.foldl {C : List Area} {α : Type} {f : State → α → State} (h : ∀ s a, Kept C s (f s a)) :
    ∀ (l : List α) (s : State), Kept C s (l.foldl f s)
  | [], s => Kept.refl C s
  | a :: l, s => (h s a).trans (Kept.foldl h l (f s a))

/-- A list changed only where `f` reads the same is the same under `f`. -/
theorem map_modify_same {α β : Type} (f : α → β) (g : α → α) (h : ∀ a, f (g a) = f a) :
    ∀ (l : List α) (i : Nat), (l.modify i g).map f = l.map f
  | [], i => by cases i <;> rfl
  | a :: l, 0 => by simp [h]
  | a :: l, i + 1 => by simp [map_modify_same f g h l i]

theorem map_map_same {α β : Type} (f : α → β) (g : α → α) (h : ∀ a, f (g a) = f a) (l : List α) :
    (l.map g).map f = l.map f := by
  simp [h]

/-- A list with one entry replaced by one that reads the same under `f` is the same under `f`. -/
theorem map_set_same {α β : Type} (f : α → β) :
    ∀ (l : List α) (i : Nat) (v : α), (∀ a, l[i]? = some a → f v = f a) → (l.set i v).map f = l.map f
  | [], i, v, _ => by cases i <;> rfl
  | a :: l, 0, v, h => by simp [h a rfl]
  | a :: l, i + 1, v, h => by simp [map_set_same f l i v fun b hb => h b (by simpa using hb)]

/-! ## Flags, records and frames on the links -/

theorem setRecord_kept (r : Nat) (j : Option JobRecord) (s : State) : Kept [.jobs, .noticeRecords] s (setRecord r j s) := by
  refine ⟨fun a ha => ?_⟩
  cases a <;> first | exact (ha (by decide)).elim | exact rfl | exact ⟨rfl, rfl⟩ | exact fun _ => rfl

theorem setPiece_kept (r : Nat) (p : PieceRecord) (s : State) : Kept [.jobs, .noticeRecords] s (setPiece r p s) :=
  setRecord_kept ..

theorem setRequest_kept (r : Nat) (q : BayRequest) (s : State) : Kept [.jobs, .noticeRecords] s (setRequest r q s) :=
  setRecord_kept ..

theorem clearLive_kept (c : Cond) (s : State) : Kept [.cond c] s (clearLive c s) := by
  refine ⟨fun a ha => ?_⟩
  cases a with
  | cond d =>
    have hd : d ≠ c := fun h => ha (by simp [h])
    exact ⟨CondFlags.get_put_other _ _ hd, rfl⟩
  | _ => first | exact rfl | exact fun _ => rfl

theorem setFlags_kept (c : Cond) (s : State) : Kept [.cond c] s (setFlags c s) := by
  refine ⟨fun a ha => ?_⟩
  cases a with
  | cond d =>
    have hd : d ≠ c := fun h => ha (by simp [h])
    exact ⟨CondFlags.get_put_other _ _ hd, CondFlags.get_put_other _ _ hd⟩
  | _ => first | exact rfl | exact fun _ => rfl

theorem nextNoticeNumber_kept (s : State) : Kept [.noticeNumber] s (nextNoticeNumber s) := by
  refine ⟨fun a ha => ?_⟩
  cases a <;> first | exact (ha (by decide)).elim | exact rfl | exact ⟨rfl, rfl⟩ | exact fun _ => rfl

theorem addLost_kept (s : State) : Kept [.lost] s (addLost s) := by
  refine ⟨fun a ha => ?_⟩
  cases a <;> first | exact (ha (by decide)).elim | exact rfl | exact ⟨rfl, rfl⟩ | exact fun _ => rfl

theorem beginNotice_kept (n r : Nat) (rest : List Nat) (s : State) :
    Kept [.millTx, .notices, .millPointer, .freeCount] s (beginNotice n r rest s) := by
  refine ⟨fun a ha => ?_⟩
  cases a <;> first | exact (ha (by decide)).elim | exact rfl | exact ⟨rfl, rfl⟩ | exact fun _ => rfl

theorem beginForward_kept (n : Nat) (f : MillFrame) (rest : List MillFrame) (s : State) :
    Kept [.millTx, .millPointer, .forward] s (beginForward n f rest s) := by
  refine ⟨fun a ha => ?_⟩
  cases a <;> first | exact (ha (by decide)).elim | exact rfl | exact ⟨rfl, rfl⟩ | exact fun _ => rfl

theorem beginResponse_kept (n : Nat) (f : MillFrame) (s : State) : Kept [.millTx, .slot] s (beginResponse n f s) := by
  refine ⟨fun a ha => ?_⟩
  cases a <;> first | exact (ha (by decide)).elim | exact rfl | exact ⟨rfl, rfl⟩ | exact fun _ => rfl

/-- What the mill-link transmitter may touch as it begins a frame (R203). -/
def millSends : List Area := [.millTx, .notices, .millPointer, .forward, .slot, .freeCount]

theorem millBegin_kept (s : State) : Kept millSends s (millBegin s) := by
  unfold millBegin
  split
  · split
    · exact (beginResponse_kept ..).mono
    · exact (beginNotice_kept ..).mono
    · exact (beginForward_kept ..).mono
    · exact (beginForward_kept ..).mono
    · exact (beginNotice_kept ..).mono
    · exact Kept.refl _ _
  · exact Kept.refl _ _

theorem joinNotices_kept (r : Nat) (s : State) : Kept millSends s (joinNotices r s) := by
  refine Kept.trans (t := { s with mfh := { s.mfh with notices := s.mfh.notices ++ [r] } }) ?_ (millBegin_kept _)
  refine ⟨fun a ha => ?_⟩
  cases a <;> first | exact (ha (by decide)).elim | exact rfl | exact ⟨rfl, rfl⟩ | exact fun _ => rfl

/-- A grant fills the lowest-numbered free record, when the test of R52 passes (R50). -/
theorem grant_some {j : JobRecord} {s t : State} {r : Nat} (h : grant j s = some (r, t)) :
    canGrant j.cls s = true ∧ s.pool.records.findIdx? Option.isNone = some r ∧ t = setRecord r (some j) s := by
  unfold grant at h
  split at h
  · next hc =>
    obtain ⟨q, hq, he⟩ := Option.map_eq_some_iff.mp h
    obtain ⟨rfl, rfl⟩ := Prod.mk.injEq .. ▸ he
    exact ⟨hc, hq, rfl⟩
  · cases h

/-- The record a grant fills was free. -/
theorem grant_was_free {j : JobRecord} {s t : State} {r : Nat} (h : grant j s = some (r, t)) :
    s.pool.records[r]? = some none := by
  obtain ⟨-, hf, -⟩ := grant_some h
  obtain ⟨hr, hp, -⟩ := List.findIdx?_eq_some_iff_getElem.mp hf
  simp only [List.getElem?_eq_getElem hr]
  exact congrArg some (Option.isNone_iff_eq_none.mp hp)

theorem grant_kept {j : JobRecord} {s t : State} {r : Nat} (h : grant j s = some (r, t)) :
    Kept [.jobs, .noticeRecords] s t := by
  obtain ⟨-, -, rfl⟩ := grant_some h
  exact setRecord_kept ..

theorem grant_notice_kept {n : Notice} {s t : State} {r : Nat} (h : grant (.notice n) s = some (r, t)) :
    Kept [.noticeRecords] s t := by
  have hf := grant_was_free h
  obtain ⟨-, -, rfl⟩ := grant_some h
  refine ⟨fun a ha => ?_⟩
  cases a with
  | jobs =>
    refine map_set_same onlyJob _ _ _ fun x hx => ?_
    rw [hf] at hx
    cases hx
    rfl
  | _ => first | exact (ha (by decide)).elim | exact rfl | exact ⟨rfl, rfl⟩ | exact fun _ => rfl

theorem raiseDepth_kept : ∀ (d : Nat) (k : NoticeKind) (args : List Int) (s : State),
    Kept reports s (raiseDepth d k args s)
  | 0, _, _, s => Kept.refl _ s
  | d + 1, k, args, s => by
    unfold raiseDepth
    split
    · exact Kept.refl _ s
    · refine Kept.trans (nextNoticeNumber_kept s).mono ?_
      dsimp only
      split
      · next r s1 h =>
        refine Kept.trans (grant_notice_kept h).mono (Kept.trans (joinNotices_kept r s1).mono ?_)
        split
        · exact Kept.trans (setFlags_kept ..).mono (raiseDepth_kept d ..)
        · exact Kept.refl _ _
      · refine Kept.trans (addLost_kept _).mono ?_
        split
        · exact Kept.trans (setFlags_kept ..).mono (raiseDepth_kept d ..)
        · exact Kept.refl _ _

theorem raise_kept (k : NoticeKind) (args : List Int) (s : State) : Kept reports s (raise k args s) :=
  raiseDepth_kept 3 k args s

theorem rise_kept (c : Cond) (s : State) : Kept (.cond c :: reports) s (rise c s) := by
  unfold rise
  split
  · exact Kept.refl _ s
  · exact Kept.trans ((setFlags_kept c s).mono (by cases c <;> decide))
      ((raise_kept ..).mono (by cases c <;> decide))

theorem setCond_kept (c : Cond) (v : Bool) (s : State) : Kept (.cond c :: reports) s (setCond c v s) := by
  unfold setCond
  split
  · exact rise_kept c s
  · exact (clearLive_kept c s).mono (by cases c <;> decide)

theorem testPoolLow_kept (s : State) : Kept reports s (testPoolLow s) := (setCond_kept _ _ s).mono
theorem testUnlisted_kept (s : State) : Kept (.cond .unlistedPresent :: reports) s (testUnlisted s) := setCond_kept _ _ s
theorem testLevel_kept (s : State) : Kept (.cond .slcLevel :: reports) s (testLevel s) := setCond_kept _ _ s

theorem saturated_kept (cut : Bool) (s : State) : Kept reports s (saturated cut s) := by
  unfold saturated
  split
  · exact (rise_kept _ s).mono
  · exact Kept.refl _ s

theorem addClosures_kept (k : CloseKind) (n : Nat) (s : State) : Kept (.breakCounts :: reports) s (addClosures k n s) := by
  refine Kept.trans ?_ (saturated_kept _ _).mono
  refine ⟨fun a ha => ?_⟩
  cases a <;> first | exact (ha (by decide)).elim | exact rfl | exact ⟨rfl, rfl⟩ | exact fun _ => rfl

/-! ## The service line, the frame link, the mill link -/

theorem sendFrom_kept (x : Agent) (s : State) : Kept [.line, .serviceTx, .sourcePointer] s (sendFrom x s) := by
  unfold sendFrom
  split
  · exact Kept.refl _ s
  · refine ⟨fun a ha => ?_⟩
    cases a <;> first | exact (ha (by decide)).elim | exact rfl | exact ⟨rfl, rfl⟩ | exact fun _ => rfl

theorem serviceBegin_kept (s : State) : Kept [.line, .serviceTx, .sourcePointer] s (serviceBegin s) := by
  unfold serviceBegin
  split
  · split
    · exact sendFrom_kept ..
    · exact Kept.refl _ s
  · exact Kept.refl _ s

theorem enqueue_kept (x : Agent) (m : SvcMsg) (s : State) : Kept [.serviceTx, .freeCount] s (enqueue x m s) := by
  refine ⟨fun a ha => ?_⟩
  cases a <;> first | exact (ha (by decide)).elim | exact rfl | exact ⟨rfl, rfl⟩ | exact fun _ => rfl

theorem countDrop_kept (x : Agent) (s : State) : Kept (.drops :: reports) s (countDrop x s) := by
  refine Kept.trans ?_ (saturated_kept _ _).mono
  refine ⟨fun a ha => ?_⟩
  cases a <;> first | exact (ha (by decide)).elim | exact rfl | exact ⟨rfl, rfl⟩ | exact fun _ => rfl

theorem place_kept (x : Agent) (m : SvcMsg) (s : State) : Kept (sends ++ reports) s (place x m s) := by
  unfold place
  split
  · exact Kept.trans (enqueue_kept ..).mono (serviceBegin_kept _).mono
  · exact (countDrop_kept ..).mono

theorem placePresent_kept (m : SvcMsg) (s : State) : Kept (sends ++ reports) s (placePresent m s) :=
  Kept.trans (Kept.ite (place_kept ..) (Kept.refl _ s)) (Kept.ite (place_kept ..) (Kept.refl _ _))

theorem downBegin_kept (s : State) : Kept [.drive, .pass, .down] s (downBegin s) := by
  unfold downBegin
  split
  · refine ⟨fun a ha => ?_⟩
    cases a <;> first | exact (ha (by decide)).elim | exact rfl | exact ⟨rfl, rfl⟩ | exact fun _ => rfl
  · refine ⟨fun a ha => ?_⟩
    cases a <;> first | exact (ha (by decide)).elim | exact rfl | exact ⟨rfl, rfl⟩ | exact fun _ => rfl
  · exact Kept.refl _ s

theorem placeDrive_kept (c : DriveCmd) (s : State) : Kept (drives ++ reports) s (placeDrive c s) := by
  unfold placeDrive
  split
  · refine Kept.trans (t := { s with fli := { s.fli with drive := s.fli.drive ++ [c] } }) ?_ (downBegin_kept _).mono
    refine ⟨fun a ha => ?_⟩
    cases a <;> first | exact (ha (by decide)).elim | exact rfl | exact ⟨rfl, rfl⟩ | exact fun _ => rfl
  · refine Kept.trans ?_ (saturated_kept _ _).mono
    refine ⟨fun a ha => ?_⟩
    cases a <;> first | exact (ha (by decide)).elim | exact rfl | exact ⟨rfl, rfl⟩ | exact fun _ => rfl

theorem countForwardDrop_kept (s : State) : Kept (.linkErrors :: reports) s (countForwardDrop s) := by
  refine Kept.trans ?_ (saturated_kept _ _).mono
  refine ⟨fun a ha => ?_⟩
  cases a <;> first | exact (ha (by decide)).elim | exact rfl | exact ⟨rfl, rfl⟩ | exact fun _ => rfl

theorem placeForward_kept (f : MillFrame) (s : State) : Kept (.linkErrors :: reports) s (placeForward f s) := by
  unfold placeForward
  split
  · refine Kept.trans (t := { s with fli := { s.fli with forward := s.fli.forward ++ [f] } }) ?_ (millBegin_kept _).mono
    refine ⟨fun a ha => ?_⟩
    cases a <;> first | exact (ha (by decide)).elim | exact rfl | exact ⟨rfl, rfl⟩ | exact fun _ => rfl
  · exact countForwardDrop_kept s

end Sys2Proof.Safety
end

