-- ==== Sys2Proof/Laws/FramesJobs.lean ====
section
/-! SUPPORT. What the operations of the roving monitor, the dispatcher and the classifier can touch. -/

namespace Sys2Proof.Safety

set_option Elab.async false

open Sys2Proof.Machine

/-! ## Spindles and sections -/

theorem setState_kept (n : Nat) (st : SpindleState) (s : State) : Kept [.spindleStates] s (setState n st s) := by
  refine ⟨fun a ha => ?_⟩
  cases a <;> first
    | exact (ha (by decide)).elim
    | exact rfl
    | exact ⟨rfl, rfl⟩
    | exact fun _ => rfl
    | exact map_modify_same _ _ (by intro _; rfl) _ _

theorem lockSpindle_kept (n : Nat) (s : State) : Kept [.spindleStates, .locked] s (lockSpindle n s) := by
  refine Kept.trans (setState_kept n .locked s).mono ⟨fun a ha => ?_⟩
  cases a <;> first | exact (ha (by decide)).elim | exact rfl | exact ⟨rfl, rfl⟩ | exact fun _ => rfl

theorem recordFlags_kept (n : Nat) (e : SurveyEntry) (s : State) : Kept [.flags] s (recordFlags n e s) := by
  refine ⟨fun a ha => ?_⟩
  cases a <;> first
    | exact (ha (by decide)).elim
    | exact rfl
    | exact ⟨rfl, rfl⟩
    | exact fun _ => rfl
    | exact map_modify_same _ _ (by intro _; rfl) _ _

/-! ## The roving monitor (chapter 6) -/

theorem bayOfferTest_kept (s : State) : Kept callings s (bayOfferTest s) := by
  unfold bayOfferTest
  split
  · split
    · exact Kept.trans (setRequest_kept ..).mono (place_kept ..).mono
    · exact Kept.refl _ s
  · exact Kept.refl _ s

theorem setWanting_kept (b : Nat) (v : Bool) (s : State) : Kept [.wanting] s (setWanting b v s) := by
  refine ⟨fun a ha => ?_⟩
  cases a <;> first | exact (ha (by decide)).elim | exact rfl | exact ⟨rfl, rfl⟩ | exact fun _ => rfl

theorem createRequest_kept (b : Nat) (listed : List Nat) (urgent : Bool) (s : State) :
    Kept callings s (createRequest b listed urgent s) := by
  unfold createRequest
  split
  · next r s1 h =>
    refine Kept.trans (grant_kept h).mono
      (Kept.trans (t := { s1 with rvm := { s1.rvm with requests := s1.rvm.requests ++ [r] } }) ⟨fun a ha => ?_⟩
        (Kept.trans (setWanting_kept ..).mono (Kept.trans (testPoolLow_kept _).mono (Kept.trans (raise_kept ..).mono
          (bayOfferTest_kept _)))))
    cases a <;> first | exact (ha (by decide)).elim | exact rfl | exact ⟨rfl, rfl⟩ | exact fun _ => rfl
  · exact (setWanting_kept ..).mono

theorem callTest_kept (preDoff : Bool) (b : Nat) (s : State) : Kept callings s (callTest preDoff b s) := by
  unfold callTest
  dsimp only
  split
  · split
    · exact createRequest_kept ..
    · exact Kept.ite (setRequest_kept ..).mono (Kept.refl _ s)
  · exact Kept.ite (setWanting_kept ..).mono (Kept.refl _ s)

theorem callTests_kept (preDoff : Bool) (bays : List Nat) (s : State) : Kept callings s (callTests preDoff bays s) :=
  Kept.foldl (fun s b => callTest_kept preDoff b s) bays s

theorem modRoving_kept (n : Nat) (f : Spindle → Option Roving) (s : State) :
    Kept [.roving] s (modSpindle n (fun e => { e with roving := f e }) s) := by
  refine ⟨fun a ha => ?_⟩
  cases a <;> first
    | exact (ha (by decide)).elim
    | exact rfl
    | exact ⟨rfl, rfl⟩
    | exact fun _ => rfl
    | exact map_modify_same _ _ (by intro _; rfl) _ _

theorem markEmpty_kept (n : Nat) (s : State) : Kept (.roving :: callings) s (markEmpty n s) := by
  unfold markEmpty
  split
  · split
    · exact Kept.refl _ s
    · exact Kept.trans (modRoving_kept ..).mono (callTest_kept ..).mono
  · exact Kept.refl _ s

theorem refill_kept (n : Nat) (s : State) : Kept [.roving] s (refill n s) := modRoving_kept ..

theorem redraw_kept (f : Spindle → Nat → Nat) (s : State) : Kept (.roving :: reports) s (redraw f s) := by
  refine Kept.trans (t := { s with spindles := redrawList f s }) ⟨fun a ha => ?_⟩
    (Kept.foldl (fun s n => (raise_kept ..).mono) _ _)
  cases a <;> first
    | exact (ha (by decide)).elim
    | exact rfl
    | exact ⟨rfl, rfl⟩
    | exact fun _ => rfl
    | exact map_map_same _ _ (by intro _; rfl) _

theorem returnToWaiting_kept (r : Nat) (q : BayRequest) (s : State) : Kept callings s (returnToWaiting r q s) :=
  Kept.trans (setRequest_kept ..).mono (Kept.trans (callTest_kept ..) (bayOfferTest_kept _))

theorem consume_kept (pulses : Nat) (s : State) : Kept (.roving :: callings) s (consume pulses s) :=
  Kept.trans (redraw_kept ..).mono (callTests_kept ..).mono

/-! ## The dispatcher (chapter 4) -/

theorem modTag_kept (c : Carriage) (s : State) :
    Kept [.tags] s (modCarriage c (fun v => { v with nextTag := (v.nextTag + 1) % 256 }) s) := by
  refine ⟨fun a ha => ?_⟩
  cases c <;> cases a <;> first
    | exact (ha (by decide)).elim
    | exact rfl
    | exact ⟨rfl, rfl⟩
    | exact fun d => by cases d <;> rfl

theorem offer_kept (c : Carriage) (r : Nat) (s : State) : Kept offers s (offer c r s) := by
  unfold offer
  split
  · exact Kept.refl _ s
  · exact Kept.trans (setPiece_kept ..).mono (Kept.trans (modTag_kept ..).mono
      (Kept.trans (setState_kept ..).mono (place_kept ..).mono))

theorem offerOnce_kept (c : Carriage) (s : State) : Kept offers s (offerOnce c s) := by
  unfold offerOnce
  split
  · exact offer_kept ..
  · exact Kept.refl _ s

theorem offerTest_kept (c : Carriage) (s : State) : Kept offers s (offerTest c s) :=
  Kept.trans (offerOnce_kept c s) (offerOnce_kept c _)

theorem offerTests_kept (s : State) : Kept offers s (offerTests s) :=
  Kept.trans (offerTest_kept .pc1 s) (offerTest_kept .pc2 _)

theorem assignQuiet_kept (r : Nat) (s : State) : Kept [.jobs, .noticeRecords] s (assignQuiet r s) := by
  unfold assignQuiet
  split
  · exact Kept.refl _ s
  · split
    · exact setPiece_kept ..
    · exact setPiece_kept ..

theorem offerFor_kept (r : Nat) (s : State) : Kept offers s (offerFor r s) := by
  unfold offerFor
  split
  · exact offerTest_kept ..
  · exact Kept.refl _ s

theorem assign_kept (r : Nat) (s : State) : Kept offers s (assign r s) :=
  Kept.trans (assignQuiet_kept r s).mono (offerFor_kept r _)

theorem requeueQuiet_kept (r : Nat) (skip : Bool) (s : State) :
    Kept [.jobs, .noticeRecords, .spindleStates] s (requeueQuiet r skip s) := by
  unfold requeueQuiet
  split
  · exact Kept.refl _ s
  · exact Kept.trans (setState_kept ..).mono (Kept.ite (setPiece_kept ..).mono (assignQuiet_kept ..).mono)

theorem requeue_kept (c : Carriage) (r : Nat) (skip : Bool) (s : State) : Kept offers s (requeue c r skip s) :=
  Kept.trans (requeueQuiet_kept ..).mono (Kept.trans (offerFor_kept ..) (offerTest_kept ..))

theorem sweepOne_kept (n : Nat) (s : State) :
    Kept [.jobs, .noticeRecords, .spindleStates] s (sweepOne n s).2 := by
  unfold sweepOne
  split
  · dsimp only
    split
    · next h => exact Kept.trans (grant_kept h).mono (setState_kept ..).mono
    · exact Kept.refl _ s
  · exact Kept.refl _ s

theorem sweepList_kept : ∀ (l : List Nat) (s : State),
    Kept [.jobs, .noticeRecords, .spindleStates] s (sweepList l s).2
  | [], s => Kept.refl _ s
  | n :: l, s => Kept.trans (sweepOne_kept n s) (sweepList_kept l _)

theorem sweepEffect_kept (s : State) (r : Nat) : Kept sweeps s (sweepEffect s r) := by
  unfold sweepEffect
  split
  · exact (assign_kept r s).mono
  · exact (markEmpty_kept _ s).mono
  · exact Kept.refl _ s

theorem sweep_kept (s : State) : Kept sweeps s (sweep s) :=
  Kept.trans (sweepList_kept ..).mono (Kept.trans (testUnlisted_kept _).mono
    (Kept.trans (testPoolLow_kept _).mono (Kept.foldl (fun s r => sweepEffect_kept s r) _ _)))

theorem freeQuiet_kept (r : Nat) (s : State) : Kept (.jobs :: reports) s (freeQuiet r s) :=
  Kept.trans (setRecord_kept r none s).mono (testPoolLow_kept _).mono

theorem free_kept (r : Nat) (s : State) : Kept sweeps s (free r s) :=
  Kept.trans (freeQuiet_kept r s).mono (sweep_kept _)

theorem cancelOffer_kept (p : PieceRecord) (s : State) : Kept (sends ++ reports) s (cancelOffer p s) := by
  unfold cancelOffer
  split
  · exact place_kept ..
  · exact place_kept ..
  · exact Kept.refl _ s

theorem chargedAttempt_kept (r : Nat) (skip : Bool) (s : State) : Kept closings s (chargedAttempt r skip s) := by
  unfold chargedAttempt
  split
  · exact Kept.refl _ s
  · refine Kept.trans (setPiece_kept ..).mono (Kept.ite (requeue_kept ..).mono ?_)
    exact Kept.trans (lockSpindle_kept ..).mono (Kept.trans (addClosures_kept ..).mono (Kept.trans (free_kept ..).mono
      (Kept.trans (raise_kept ..).mono (offerTest_kept ..).mono)))

/-! ## The classifier (chapter 1) -/

theorem countConfirmation_kept (n : Nat) (o : Origin) (s : State) :
    Kept (.sinceDoff :: .liveCounts :: .breakCounts :: .openSlot :: reports) s (countConfirmation n o s) := by
  refine Kept.trans ?_ (saturated_kept _ _).mono
  cases o <;> refine ⟨fun a ha => ?_⟩ <;> cases a <;> first
    | exact (ha (by decide)).elim
    | exact rfl
    | exact ⟨rfl, rfl⟩
    | exact fun _ => rfl
    | exact map_modify_same _ _ (by intro _; rfl) _ _

theorem requestBreak_kept (n : Nat) (hold : Bool) (o : Origin) (s : State) : Kept sweeps s (requestBreak n hold o s) := by
  unfold requestBreak
  split
  · split
    · next h =>
      exact Kept.trans (grant_kept h).mono (Kept.trans (setState_kept ..).mono (Kept.trans (testPoolLow_kept _).mono
        (markEmpty_kept ..).mono))
    · exact Kept.trans (setState_kept ..).mono (Kept.trans (testUnlisted_kept _).mono (markEmpty_kept ..).mono)
  · split
    · next h =>
      exact Kept.trans (grant_kept h).mono (Kept.trans (setState_kept ..).mono (Kept.trans (testPoolLow_kept _).mono
        (assign_kept ..).mono))
    · exact Kept.trans (setState_kept ..).mono (testUnlisted_kept _).mono

theorem confirmBreak_kept (n : Nat) (fromIdle : Bool) (s : State) : Kept surveys s (confirmBreak n fromIdle s) := by
  unfold confirmBreak
  dsimp only
  refine Kept.trans (countConfirmation_kept n (originOf fromIdle s) s).mono ?_
  split
  · exact Kept.trans (lockSpindle_kept ..).mono (Kept.trans (addClosures_kept ..).mono (raise_kept ..).mono)
  · exact (requestBreak_kept ..).mono

theorem heal_kept (n : Nat) (s : State) : Kept closings s (heal n s) := by
  unfold heal
  refine Kept.trans (setState_kept n .running s).mono (Kept.trans (addClosures_kept .hand 1 _).mono ?_)
  dsimp only
  split
  · split
    · exact Kept.trans (refill_kept ..).mono (testUnlisted_kept _).mono
    · exact (testUnlisted_kept _).mono
  · exact Kept.trans (refill_kept ..).mono (free_kept ..).mono
  · split
    · next p _ =>
      refine Kept.trans (cancelOffer_kept p _).mono ?_
      split
      · exact Kept.trans (free_kept ..).mono (offerTest_kept ..).mono
      · exact (free_kept ..).mono
    · exact (free_kept ..).mono
  · exact Kept.refl _ _

theorem verified_kept (n : Nat) (s : State) : Kept closings s (verified n s) := by
  unfold verified
  refine Kept.trans (setState_kept n .running s).mono (Kept.trans (addClosures_kept .pieced 1 _).mono ?_)
  dsimp only
  split
  · exact (free_kept ..).mono
  · exact Kept.refl _ _

theorem verifyFailed_kept (n : Nat) (s : State) : Kept closings s (verifyFailed n s) := by
  unfold verifyFailed
  split
  · exact chargedAttempt_kept ..
  · exact Kept.refl _ s

theorem addSlip_kept (n : Nat) (s : State) : Kept (.liveCounts :: reports) s (addSlip n s) := by
  unfold addSlip
  refine Kept.trans (t := modSpindle n (fun e => { e with live := { e.live with slip := sat max16 e.live.slip 1 } }) s)
    ⟨fun a ha => ?_⟩ (Kept.trans (saturated_kept (cutShort max16 (spindle n s).live.slip 1) _).mono ?_)
  · cases a <;> first
      | exact (ha (by decide)).elim
      | exact rfl
      | exact ⟨rfl, rfl⟩
      | exact fun _ => rfl
      | exact map_modify_same _ _ (by intro _; rfl) _ _
  · dsimp only
    split
    · exact (raise_kept ..).mono
    · exact Kept.refl _ _

theorem takeFirstLow_kept (n : Nat) (fromIdle : Bool) (s : State) : Kept surveys s (takeFirstLow n fromIdle s).state := by
  unfold takeFirstLow
  dsimp only
  split
  · exact Kept.trans (setState_kept ..).mono (confirmBreak_kept ..)
  · exact (setState_kept ..).mono

theorem takeHealing_kept (n good : Nat) (back : Nat → SpindleState) (r : Reading) (s : State) :
    Kept closings s (takeHealing n good back r s).state := by
  unfold takeHealing
  split
  · exact (setState_kept ..).mono
  · split
    · exact heal_kept ..
    · exact (setState_kept ..).mono
  · split
    · exact heal_kept ..
    · exact (setState_kept ..).mono

theorem takeReading_kept (n : Nat) (r : Reading) (s : State) : Kept surveys s (takeReading n r s).state := by
  unfold takeReading
  split
  · exact Kept.refl _ s
  · exact Kept.refl _ s
  · split
    · exact takeFirstLow_kept ..
    · exact (setState_kept ..).mono
  · split
    · exact takeFirstLow_kept ..
    · exact Kept.refl _ s
  · split
    · dsimp only
      split
      · exact Kept.trans (setState_kept ..).mono (confirmBreak_kept ..)
      · exact (setState_kept ..).mono
    · exact (setState_kept ..).mono
  · exact (takeHealing_kept ..).mono
  · exact (takeHealing_kept ..).mono
  · exact (takeHealing_kept ..).mono
  · exact (takeHealing_kept ..).mono
  · split
    · exact (verifyFailed_kept ..).mono
    · exact (verified_kept ..).mono

theorem applyReading_kept (n : Nat) (r : Reading) (s : State) : Kept surveys s (applyReading n r s).state :=
  Kept.trans (Kept.ite (addSlip_kept n s).mono (Kept.refl _ s)) (takeReading_kept ..)

theorem takeEntry_kept (expected n : Nat) (e : SurveyEntry) (s : State) :
    Kept surveys s (takeEntry expected n e s).state := by
  unfold takeEntry
  split
  · exact Kept.refl _ s
  · dsimp only
    split
    · exact (recordFlags_kept ..).mono
    · exact Kept.trans (recordFlags_kept ..).mono (applyReading_kept ..)

theorem takeEntries_kept (expected : Nat) : ∀ (n : Nat) (l : List SurveyEntry) (s : State),
    Kept surveys s (takeEntries expected n l s).state
  | _, [], s => Kept.refl _ s
  | n, e :: l, s => Kept.trans (takeEntry_kept expected n e s) (takeEntries_kept expected (n + 1) l _)

theorem putWatch_kept (b : Nat) (w : Watch) (s : State) :
    Kept [.watches] s (modSection b (fun e => { e with watch := some w }) s) := by
  refine ⟨fun a ha => ?_⟩
  cases a <;> first
    | exact (ha (by decide)).elim
    | exact rfl
    | exact ⟨rfl, rfl⟩
    | exact fun _ => rfl
    | exact map_modify_same _ _ (by intro _; rfl) _ _

theorem meetSection_kept (sv : Survey) (s : State) : Kept (.watches :: reports) s (meetSection sv s).1 := by
  unfold meetSection
  dsimp only
  split
  · split
    · exact Kept.trans (putWatch_kept ..).mono (raise_kept ..).mono
    · split
      · exact (putWatch_kept ..).mono
      · exact (putWatch_kept ..).mono
  · exact (putWatch_kept ..).mono

theorem classify_kept (sv : Survey) (s : State) : Kept surveys s (classify sv s).state := by
  unfold classify
  dsimp only
  split
  · exact Kept.trans (meetSection_kept sv s).mono (takeEntries_kept ..)
  · exact (meetSection_kept sv s).mono

theorem ageSections_kept (s : State) : Kept (.watches :: reports) s (ageSections s) := by
  refine Kept.trans (t := { s with sections := s.sections.map (agedSection s.detection.silenceLimit) })
    ⟨fun a ha => ?_⟩ (Kept.foldl (fun s n => (raise_kept ..).mono) _ _)
  cases a <;> first
    | exact (ha (by decide)).elim
    | exact rfl
    | exact ⟨rfl, rfl⟩
    | exact fun _ => rfl
    | exact map_map_same _ _ (by intro _; rfl) _

theorem blank_kept (n : Nat) (s : State) : Kept (.flags :: closings) s (blank n s) := by
  unfold blank
  refine Kept.trans
    (t := modSpindle n (fun e => { e with state := .blanked, rovingAbsent := false, clampClosed := false }) s)
    ⟨fun a ha => ?_⟩ ?_
  · cases a <;> first
      | exact (ha (by decide)).elim
      | exact rfl
      | exact ⟨rfl, rfl⟩
      | exact fun _ => rfl
      | exact map_modify_same _ _ (by intro _; rfl) _ _
  · dsimp only
    split
    · refine Kept.trans (addClosures_kept .blank 1 _).mono ?_
      split
      · split
        · next p _ =>
          refine Kept.trans (cancelOffer_kept p _).mono ?_
          split
          · exact Kept.trans (free_kept ..).mono (offerTest_kept ..).mono
          · exact (free_kept ..).mono
        · exact (free_kept ..).mono
      · exact (testUnlisted_kept _).mono
    · exact Kept.refl _ _

theorem unblank_kept (n : Nat) (s : State) : Kept (.spindleStates :: callings) s (unblank n s) :=
  Kept.trans (setState_kept ..).mono (callTest_kept ..).mono

theorem freeAll_kept (p : JobRecord → Bool) (s : State) : Kept (.jobs :: reports) s (freeAll p s) := by
  refine Kept.trans ⟨fun a ha => ?_⟩ (testPoolLow_kept _).mono
  cases a <;> first | exact (ha (by decide)).elim | exact rfl | exact ⟨rfl, rfl⟩ | exact fun _ => rfl

theorem freshSections_kept (s : State) : Kept [.watches] s (freshSections s) := by
  refine ⟨fun a ha => ?_⟩
  cases a <;> first
    | exact (ha (by decide)).elim
    | exact rfl
    | exact ⟨rfl, rfl⟩
    | exact fun _ => rfl
    | exact map_map_same _ _ (by intro _; rfl) _

end Sys2Proof.Safety
end

