-- ==== Sys2Proof/Laws/FramesBlocks.lean ====
section
/-! SUPPORT. What the operations of the counting unit, the governor, the doff sequencer and the clock can touch. -/

namespace Sys2Proof.Safety

set_option Elab.async false

open Sys2Proof.Machine

/-! ## The counting unit (chapter 2) -/

/-- A list mapped with its numbers, `f` reading every entry as before, is the same under `f`. -/
theorem map_mapFrom_same {α β : Type} (f : α → β) (g : Nat → α → α) (h : ∀ n a, f (g n a) = f a) :
    ∀ (n : Nat) (l : List α), (mapFrom g n l).map f = l.map f
  | _, [] => rfl
  | n, a :: l => by simp [mapFrom, h, map_mapFrom_same f g h (n + 1) l]

theorem creditSpindle_reads {β : Type} (f : Spindle → β) (s : State) (pulses n : Nat) (e : Spindle)
    (h : ∀ l b, f { e with live := l, build := b } = f e) : f (creditSpindle s pulses n e) = f e := by
  unfold creditSpindle
  split
  · exact h ..
  · rfl

theorem creditRunning_kept (pulses ms : Nat) (s : State) :
    Kept (.production :: .liveCounts :: .builds :: reports) s (creditRunning pulses ms s) := by
  refine Kept.trans ⟨fun a ha => ?_⟩ (saturated_kept _ _).mono
  cases a <;> first
    | exact (ha (by decide)).elim
    | exact rfl
    | exact ⟨rfl, rfl⟩
    | exact fun _ => rfl
    | exact map_mapFrom_same _ _ (fun n e => creditSpindle_reads _ s pulses n e (by intro _ _; rfl)) _ _

theorem creditStopped_kept (ms code : Nat) (s : State) : Kept (.production :: reports) s (creditStopped ms code s) := by
  refine Kept.trans ⟨fun a ha => ?_⟩ (saturated_kept _ _).mono
  cases a <;> first | exact (ha (by decide)).elim | exact rfl | exact ⟨rfl, rfl⟩ | exact fun _ => rfl

theorem countReport_kept (r : DriveReport) (s : State) :
    Kept (.latest :: .production :: .liveCounts :: .builds :: reports) s (countReport r s) := by
  unfold countReport
  refine Kept.trans
    (t := { s with pcu := { s.pcu with latest := { speed := r.speed, run := r.run, stopCode := r.stopCode } } })
    ⟨fun a ha => ?_⟩ ?_
  · cases a <;> first | exact (ha (by decide)).elim | exact rfl | exact ⟨rfl, rfl⟩ | exact fun _ => rfl
  · exact Kept.ite (creditRunning_kept ..).mono (creditStopped_kept ..).mono

theorem addDoffs_kept (s : State) : Kept (.doffCounts :: reports) s (addDoffs s) := by
  refine Kept.trans ⟨fun a ha => ?_⟩ (saturated_kept _ _).mono
  cases a <;> first | exact (ha (by decide)).elim | exact rfl | exact ⟨rfl, rfl⟩ | exact fun _ => rfl

theorem addBaysDone_kept (s : State) : Kept (.baysDone :: reports) s (addBaysDone s) := by
  refine Kept.trans ⟨fun a ha => ?_⟩ (saturated_kept _ _).mono
  cases a <;> first | exact (ha (by decide)).elim | exact rfl | exact ⟨rfl, rfl⟩ | exact fun _ => rfl

theorem addCops_kept (full part : Nat) (s : State) : Kept (.doffCounts :: reports) s (addCops full part s) := by
  refine Kept.trans ⟨fun a ha => ?_⟩ (saturated_kept _ _).mono
  cases a <;> first | exact (ha (by decide)).elim | exact rfl | exact ⟨rfl, rfl⟩ | exact fun _ => rfl

theorem bringIntoForce_kept (s : State) : Kept [.inForce, .staged] s (bringIntoForce s) := by
  unfold bringIntoForce
  split
  · refine ⟨fun a ha => ?_⟩
    cases a <;> first | exact (ha (by decide)).elim | exact rfl | exact ⟨rfl, rfl⟩ | exact fun _ => rfl
  · exact Kept.refl _ s

theorem closeShift_kept (index : Nat) (reason : CloseReason) (s : State) :
    Kept shiftCloses s (closeShift index reason s) := by
  unfold closeShift
  dsimp only
  refine Kept.trans (t := { s with
      pcu := { s.pcu with frame :=
        { FrameCounters.zero with carriedIn := (shiftRecord index reason s).openAtClose } }
      spindles := s.spindles.map moveCounts
      scs := { s.scs with history := (shiftRecord index reason s :: s.scs.history).take Config.history,
                          openShift := some (shiftRecord index reason s).finish } }) ⟨fun a ha => ?_⟩
    (Kept.trans (clearLive_kept .counterSaturated _).mono
      (Kept.trans (raise_kept .shiftClosed
        [((shiftRecord index reason s).day : Int), ((shiftRecord index reason s).index : Int), (reason.code : Int),
         ((shiftRecord index reason s).openAtClose : Int)] _).mono ⟨fun a ha => ?_⟩))
  · cases a <;> first
      | exact (ha (by decide)).elim
      | exact rfl
      | exact ⟨rfl, rfl⟩
      | exact fun _ => rfl
      | exact map_map_same _ _ (by intro _; rfl) _
  · cases a <;> first | exact (ha (by decide)).elim | exact rfl | exact ⟨rfl, rfl⟩ | exact fun _ => rfl

/-! ## The governor (chapter 8) -/

theorem sendCap_kept (s : State) : Kept capSends s (sendCap s) := by
  refine Kept.trans (t := { s with sgv := { s.sgv with
      lastSent := effectiveCap s, sinceSent := 0,
      mismatch := if effectiveCap s = s.sgv.lastSent then s.sgv.mismatch else 0 } }) ⟨fun a ha => ?_⟩
    (placeDrive_kept ..).mono
  cases a <;> first | exact (ha (by decide)).elim | exact rfl | exact ⟨rfl, rfl⟩ | exact fun _ => rfl

theorem recap_kept (before : Nat) (s : State) : Kept capSends s (recap before s) :=
  Kept.ite (Kept.refl _ s) (sendCap_kept s)

theorem addExposure_kept (ms : Nat) (s : State) : Kept (.openSlot :: reports) s (addExposure ms s) := by
  refine Kept.trans ⟨fun a ha => ?_⟩ (saturated_kept _ _).mono
  cases a <;> first | exact (ha (by decide)).elim | exact rfl | exact ⟨rfl, rfl⟩ | exact fun _ => rfl

theorem rollSlot_kept (s : State) : Kept [.window, .openSlot, .slotTimer] s (rollSlot s) := by
  refine ⟨fun a ha => ?_⟩
  cases a <;> first | exact (ha (by decide)).elim | exact rfl | exact ⟨rfl, rfl⟩ | exact fun _ => rfl

theorem governorStep_kept (rate : Nat) (s : State) : Kept (.lastRate :: .governor :: capSends) s (governorStep rate s) := by
  unfold governorStep
  dsimp only
  refine Kept.trans (t := { s with sgv := { s.sgv with
      lastRate := some rate, governor := governorAfter s.sgv.table rate s.sgv.governor } }) ⟨fun a ha => ?_⟩ ?_
  · cases a <;> first | exact (ha (by decide)).elim | exact rfl | exact ⟨rfl, rfl⟩ | exact fun _ => rfl
  · split
    · exact Kept.refl _ _
    · exact Kept.trans (raise_kept ..).mono (recap_kept ..).mono

theorem evaluate_kept (s : State) : Kept (.lastRate :: .governor :: capSends) s (evaluate s) := by
  unfold evaluate
  split
  · exact governorStep_kept ..
  · exact Kept.refl _ s

theorem capCheck_kept (cap : Nat) (s : State) : Kept (.cond .driveCapMismatch :: capSends) s (capCheck cap s) := by
  unfold capCheck
  dsimp only
  split
  · refine Kept.trans ⟨fun a ha => ?_⟩ (clearLive_kept _ _).mono
    cases a <;> first | exact (ha (by decide)).elim | exact rfl | exact ⟨rfl, rfl⟩ | exact fun _ => rfl
  · refine Kept.trans (t := { s with sgv := { s.sgv with
        sinceSent := min 255 (s.sgv.sinceSent + 1), mismatch := min 255 (s.sgv.mismatch + 1) } }) ⟨fun a ha => ?_⟩ ?_
    · cases a <;> first | exact (ha (by decide)).elim | exact rfl | exact ⟨rfl, rfl⟩ | exact fun _ => rfl
    · split
      · split
        · exact Kept.trans (rise_kept ..).mono (sendCap_kept _).mono
        · exact (sendCap_kept _).mono
      · split
        · exact (rise_kept ..).mono
        · exact Kept.refl _ _

/-- What the governor's work at COMMISSION and RESTART may touch. -/
def governorStarts : List Area :=
  .window :: .openSlot :: .slotTimer :: .lastRate :: .governor :: .cond .driveCapMismatch :: capSends

theorem startGovernor_kept (s : State) : Kept governorStarts s (startGovernor s) := by
  unfold startGovernor
  dsimp only
  refine Kept.trans (t := { s with sgv := { s.sgv with
      closed := [], opened := { breaks := 0, exposure := 0 }, slotTimer := some s.sgv.table.slotLen, lastRate := none,
      governor := .normal, sinceSent := 0, mismatch := 0 } }) ⟨fun a ha => ?_⟩
    (Kept.trans (clearLive_kept .driveCapMismatch _).mono (Kept.ite (Kept.refl _ _) (sendCap_kept _).mono))
  cases a <;> first | exact (ha (by decide)).elim | exact rfl | exact ⟨rfl, rfl⟩ | exact fun _ => rfl

/-! ## The doff sequencer (chapter 7) -/

theorem moveDoff_kept (new : Doff) (s : State) : Kept doffMoves s (moveDoff new s) := by
  unfold moveDoff
  dsimp only
  refine Kept.trans (t := { s with dfs := { s.dfs with doff := some new } }) ⟨fun a ha => ?_⟩
    (Kept.trans (raise_kept ..).mono (setCond_kept ..).mono)
  cases a <;> first | exact (ha (by decide)).elim | exact rfl | exact ⟨rfl, rfl⟩ | exact fun _ => rfl

theorem setParkMark_kept (c : Carriage) (v : Option Bool) (s : State) : Kept [.parkingMarks] s (setParkMark c v s) := by
  refine ⟨fun a ha => ?_⟩
  cases c <;> cases a <;> first | exact (ha (by decide)).elim | exact rfl | exact ⟨rfl, rfl⟩ | exact fun _ => rfl

theorem dropMarks_kept (s : State) : Kept [.parkingMarks] s (dropMarks s) := by
  refine ⟨fun a ha => ?_⟩
  cases a <;> first | exact (ha (by decide)).elim | exact rfl | exact ⟨rfl, rfl⟩ | exact fun _ => rfl

theorem dropDoffTimer_kept (s : State) : Kept [.doffTimer] s (dropDoffTimer s) := by
  refine ⟨fun a ha => ?_⟩
  cases a <;> first | exact (ha (by decide)).elim | exact rfl | exact ⟨rfl, rfl⟩ | exact fun _ => rfl

theorem armGrace_kept (s : State) : Kept [.grace] s (armGrace s) := by
  refine ⟨fun a ha => ?_⟩
  cases a <;> first | exact (ha (by decide)).elim | exact rfl | exact ⟨rfl, rfl⟩ | exact fun _ => rfl

theorem withPermission_kept {C : List Area} {f : State → State} {s : State} (h : Kept C s (f s))
    (hc : within offers C = true := by decide) : Kept C s (withPermission f s) := by
  refine Kept.trans h ?_
  unfold withPermission
  dsimp only
  split
  · exact (offerTests_kept _).mono hc
  · exact Kept.refl _ _

theorem callDoff_kept (s : State) : Kept doffCalls s (callDoff s) := by
  unfold callDoff
  dsimp only
  refine Kept.trans (placeDrive_kept .doffStop s).mono (Kept.trans (placePresent_kept .parkCall _).mono ?_)
  refine Kept.trans ⟨fun a ha => ?_⟩ (moveDoff_kept ..).mono
  cases a <;> first | exact (ha (by decide)).elim | exact rfl | exact ⟨rfl, rfl⟩ | exact fun _ => rfl

theorem cancelAll_kept (s : State) : Kept (sends ++ reports) s (cancelAll s) := by
  refine Kept.foldl (fun s r => ?_) _ s
  split
  · exact cancelOffer_kept ..
  · exact Kept.refl _ _

/-- A list mapped by a function that changes spindle states alone. -/
theorem mapStates_kept (f : Spindle → SpindleState) (s : State) :
    Kept [.spindleStates] s { s with spindles := s.spindles.map fun e => { e with state := f e } } := by
  refine ⟨fun a ha => ?_⟩
  cases a <;> first
    | exact (ha (by decide)).elim
    | exact rfl
    | exact ⟨rfl, rfl⟩
    | exact fun _ => rfl
    | exact map_map_same _ _ (by intro _; rfl) _

theorem doffSpindle_eq (e : Spindle) :
    doffSpindle e = { e with state := if e.state.clearedAtDoff then .idle else e.state } := by
  unfold doffSpindle
  split <;> rfl

theorem closeForDoff_kept (s : State) : Kept closings s (closeForDoff s) := by
  unfold closeForDoff
  dsimp only
  refine Kept.trans (cancelAll_kept s).mono (Kept.trans
    (addClosures_kept .doff (countState SpindleState.closedAtDoff s) _).mono (Kept.trans ?_
    (Kept.trans (freeAll_kept ..).mono (testUnlisted_kept _).mono)))
  rw [show doffSpindle = fun e => { e with state := if e.state.clearedAtDoff then .idle else e.state } from
    funext doffSpindle_eq]
  exact (mapStates_kept ..).mono

theorem stagedProcessTurn_kept (s : State) :
    Kept (.inForce :: .staged :: .roving :: callings) s (stagedProcessTurn s) := by
  unfold stagedProcessTurn
  split
  · exact Kept.refl _ s
  · exact Kept.trans (bringIntoForce_kept s).mono (Kept.trans (redraw_kept ..).mono (callTests_kept ..).mono)

theorem putPartition_kept (p : Partition) (s : State) :
    Kept (.reserves :: .stagedPartition :: reports) s (putPartition p s) := by
  refine Kept.trans ⟨fun a ha => ?_⟩ (testPoolLow_kept _).mono
  cases a <;> first | exact (ha (by decide)).elim | exact rfl | exact ⟨rfl, rfl⟩ | exact fun _ => rfl

theorem stagedPartitionTurn_kept (s : State) :
    Kept (.reserves :: .stagedPartition :: reports) s (stagedPartitionTurn s) := by
  unfold stagedPartitionTurn
  split
  · exact Kept.ite (putPartition_kept ..) (Kept.refl _ s)
  · exact Kept.refl _ s

theorem enterDoffing_kept (s : State) : Kept doffEntries s (enterDoffing s) := by
  unfold enterDoffing
  dsimp only
  have h1 : Kept doffEntries s (place .ad .doffStart (dropMarks { s with dfs := { s.dfs with parkTimer := none } })) := by
    refine Kept.trans (t := { s with dfs := { s.dfs with parkTimer := none } }) ⟨fun a ha => ?_⟩
      (Kept.trans (dropMarks_kept _).mono (place_kept ..).mono)
    cases a <;> first | exact (ha (by decide)).elim | exact rfl | exact ⟨rfl, rfl⟩ | exact fun _ => rfl
  refine Kept.trans h1 ?_
  generalize place .ad .doffStart (dropMarks { s with dfs := { s.dfs with parkTimer := none } }) = s1
  have h2 : Kept doffEntries s1 (moveDoff .doffing
      { s1 with dfs := { s1.dfs with progress := 0, doffTimer := some s1.dfs.timers.doffTimeout } }) := by
    refine Kept.trans ⟨fun a ha => ?_⟩ (moveDoff_kept ..).mono
    cases a <;> first | exact (ha (by decide)).elim | exact rfl | exact ⟨rfl, rfl⟩ | exact fun _ => rfl
  refine Kept.trans h2 ?_
  generalize moveDoff .doffing
    { s1 with dfs := { s1.dfs with progress := 0, doffTimer := some s1.dfs.timers.doffTimeout } } = s2
  refine Kept.trans (closeForDoff_kept s2).mono ?_
  generalize closeForDoff s2 = s3
  refine Kept.trans (addCops_kept (copCount s3).1 (copCount s3).2 s3).mono ?_
  generalize addCops (copCount s3).1 (copCount s3).2 s3 = s4
  refine Kept.trans (t := { s4 with spindles := s4.spindles.map fun e => { e with build := 0, sinceDoff := 0 } })
    ⟨fun a ha => ?_⟩ (Kept.trans (stagedProcessTurn_kept _).mono (Kept.trans (stagedPartitionTurn_kept _).mono
      (sweep_kept _).mono))
  cases a <;> first
    | exact (ha (by decide)).elim
    | exact rfl
    | exact ⟨rfl, rfl⟩
    | exact fun _ => rfl
    | exact map_map_same _ _ (by intro _; rfl) _

theorem testWait_kept (s : State) : Kept doffEntries s (testWait s) := Kept.ite (enterDoffing_kept s) (Kept.refl _ s)

/-- What the completing of a doff may touch (R143). -/
def doffCompletions : List Area := .build :: .doffCounts :: .grace :: (sends ++ drives ++ doffMoves)

theorem completeDoff_kept (s : State) : Kept doffCompletions s (completeDoff s) := by
  refine Kept.trans (t := { s with dfs := { s.dfs with build := 0 } }) ⟨fun a ha => ?_⟩
    (Kept.trans (addDoffs_kept _).mono (Kept.trans (placeDrive_kept ..).mono (Kept.trans (placePresent_kept ..).mono
      (Kept.trans (armGrace_kept _).mono (moveDoff_kept ..).mono))))
  cases a <;> first | exact (ha (by decide)).elim | exact rfl | exact ⟨rfl, rfl⟩ | exact fun _ => rfl

theorem stopTakesEffect_kept (k : Nat) (parkedBefore : Bool) (s : State) :
    Kept (.stop :: sends ++ reports) s (stopTakesEffect k parkedBefore s) := by
  unfold stopTakesEffect
  dsimp only
  split
  · split
    · refine ⟨fun a ha => ?_⟩
      cases a <;> first | exact (ha (by decide)).elim | exact rfl | exact ⟨rfl, rfl⟩ | exact fun _ => rfl
    · refine Kept.trans ⟨fun a ha => ?_⟩ (placePresent_kept ..).mono
      cases a <;> first | exact (ha (by decide)).elim | exact rfl | exact ⟨rfl, rfl⟩ | exact fun _ => rfl
  · split
    · refine Kept.trans ⟨fun a ha => ?_⟩ (placePresent_kept ..).mono
      cases a <;> first | exact (ha (by decide)).elim | exact rfl | exact ⟨rfl, rfl⟩ | exact fun _ => rfl
    · refine ⟨fun a ha => ?_⟩
      cases a <;> first | exact (ha (by decide)).elim | exact rfl | exact ⟨rfl, rfl⟩ | exact fun _ => rfl

theorem stopGone_kept (s : State) : Kept [.stop] s { s with dfs := { s.dfs with stop := none } } := by
  refine ⟨fun a ha => ?_⟩
  cases a <;> first | exact (ha (by decide)).elim | exact rfl | exact ⟨rfl, rfl⟩ | exact fun _ => rfl

theorem stopEnds_kept (st : Stop) (s : State) : Kept (.stop :: .grace :: (sends ++ reports)) s (stopEnds st s) := by
  unfold stopEnds
  dsimp only
  refine Kept.trans ?_ (stopGone_kept _).mono
  split
  · refine Kept.trans ?_ (armGrace_kept _).mono
    exact Kept.ite (placePresent_kept .release s).mono (Kept.refl _ s)
  · exact Kept.ite (placePresent_kept .release s).mono (Kept.refl _ s)

theorem stopReport_kept (r : DriveReport) (s : State) : Kept (.stop :: .grace :: (sends ++ reports)) s (stopReport r s) := by
  unfold stopReport
  split
  · exact (stopTakesEffect_kept ..).mono
  · exact Kept.ite (Kept.refl _ s) (stopTakesEffect_kept ..).mono
  · exact Kept.refl _ s
  · exact stopEnds_kept ..
  · exact Kept.refl _ s

theorem withdraw_kept (s : State) (r : Nat) : Kept offers s (withdraw s r) := by
  unfold withdraw
  split
  · exact Kept.trans (cancelOffer_kept ..).mono (requeueQuiet_kept ..).mono
  · exact Kept.refl _ s

theorem stopWithdrawal_kept (r : DriveReport) (s : State) : Kept offers s (stopWithdrawal r s) :=
  by
  unfold stopWithdrawal
  split
  · exact Kept.foldl (fun s r => withdraw_kept s r) _ s
  · exact Kept.refl _ s

theorem addBuild_kept (pulses : Nat) (s : State) : Kept (.build :: reports) s (addBuild pulses s) := by
  refine Kept.trans ⟨fun a ha => ?_⟩ (saturated_kept _ _).mono
  cases a <;> first | exact (ha (by decide)).elim | exact rfl | exact ⟨rfl, rfl⟩ | exact fun _ => rfl

theorem countGrace_kept (ms : Nat) (s : State) : Kept (.grace :: doffMoves) s (countGrace ms s) := by
  unfold countGrace
  split
  · exact Kept.refl _ s
  · dsimp only
    split
    · split
      · refine Kept.trans ⟨fun a ha => ?_⟩ (moveDoff_kept ..).mono
        cases a <;> first | exact (ha (by decide)).elim | exact rfl | exact ⟨rfl, rfl⟩ | exact fun _ => rfl
      · refine ⟨fun a ha => ?_⟩
        cases a <;> first | exact (ha (by decide)).elim | exact rfl | exact ⟨rfl, rfl⟩ | exact fun _ => rfl
    · refine ⟨fun a ha => ?_⟩
      cases a <;> first | exact (ha (by decide)).elim | exact rfl | exact ⟨rfl, rfl⟩ | exact fun _ => rfl

theorem enterPreDoff_kept (s : State) : Kept (doffMoves ++ callings) s (enterPreDoff s) :=
  Kept.trans (moveDoff_kept ..).mono (callTests_kept ..).mono

theorem thresholdTest_kept (s : State) : Kept (doffCalls ++ callings) s (thresholdTest s) := by
  unfold thresholdTest
  split
  · exact Kept.refl _ s
  · split
    · split
      · exact (callDoff_kept s).mono
      · split
        · exact (enterPreDoff_kept s).mono
        · exact Kept.refl _ s
    · exact Kept.refl _ s

theorem waitReport_kept (r : DriveReport) (s : State) : Kept doffEntries s (waitReport r s) := by
  refine Kept.trans ⟨fun a ha => ?_⟩ (testWait_kept _)
  cases a <;> first | exact (ha (by decide)).elim | exact rfl | exact ⟨rfl, rfl⟩ | exact fun _ => rfl

theorem doffReport_kept (r : DriveReport) (s : State) :
    Kept (.build :: .grace :: (doffCalls ++ doffEntries)) s (doffReport r s) := by
  unfold doffReport
  dsimp only
  refine Kept.trans (Kept.cond (r.moving = true) (addBuild_kept r.pulses s).mono (Kept.refl _ s)) ?_
  generalize (if r.moving = true then addBuild r.pulses s else s) = s1
  refine Kept.trans (Kept.trans (stopReport_kept r s1).mono (stopWithdrawal_kept r _).mono) ?_
  generalize stopWithdrawal r (stopReport r s1) = s2
  refine Kept.trans (Kept.cond ((r.moving && !armsGrace r s1) = true) (countGrace_kept r.interval s2).mono
    (Kept.refl _ s2)) ?_
  refine Kept.trans (thresholdTest_kept _).mono ?_
  exact Kept.ite (waitReport_kept ..).mono (Kept.refl _ _)

/-- What a turn of the service line may touch (R95, R103). -/
def serviceTurns : List Area := offers ++ callings

theorem placeFreed_kept (a : Agent) (s : State) : Kept serviceTurns s (placeFreed a s) := by
  cases a
  · exact (offerTest_kept ..).mono
  · exact (offerTest_kept ..).mono
  · exact Kept.refl _ s
  · exact (bayOfferTest_kept s).mono

/-- All that telling an owner can do: nothing, or the test of the owner of the frame that began in the event's work. -/
theorem telling_cases (f : State → State) (s : State) :
    telling f s = f s
      ∨ ∃ a, sendingFrom s = none ∧ sendingFrom (f s) = some a ∧ telling f s = placeFreed a (f s) := by
  unfold telling
  dsimp only
  split
  · exact .inr ⟨_, ‹_›, ‹_›, rfl⟩
  · exact .inl rfl

theorem telling_kept {touched : List Area} {f : State → State} {s : State} (h : Kept touched s (f s)) :
    Kept (touched ++ serviceTurns) s (telling f s) := by
  have work : Kept (touched ++ serviceTurns) s (f s) := ⟨fun a ha => h.same a fun hx => ha (List.mem_append_left _ hx)⟩
  obtain e | ⟨a, -, -, e⟩ := telling_cases f s
  · exact e ▸ work
  · exact e ▸ Kept.trans work ⟨fun b hb => (placeFreed_kept a (f s)).same b fun hx => hb (List.mem_append_right _ hx)⟩

theorem serviceTurn_kept (s : State) : Kept serviceTurns s (serviceTurn s) := (telling_kept (serviceBegin_kept s)).mono

theorem placeTold_kept (a : Agent) (m : SvcMsg) (s : State) : Kept serviceTurns s (placeTold a m s) :=
  (telling_kept (place_kept a m s)).mono

theorem reportWork_kept (r : DriveReport) (s : State) : Kept driveReports s (reportWork r s) := by
  unfold reportWork
  dsimp only
  refine Kept.trans (countReport_kept r s).mono (Kept.trans (ageSections_kept _).mono ?_)
  generalize ageSections (countReport r s) = s1
  refine Kept.trans (Kept.cond (r.moving = true) (consume_kept r.pulses s1).mono (Kept.refl _ s1)) ?_
  generalize (if r.moving = true then consume r.pulses s1 else s1) = s2
  refine Kept.trans (withPermission_kept (doffReport_kept r s2).mono) ?_
  refine Kept.trans (Kept.cond (r.moving = true) (addExposure_kept (r.interval * producingCount s) _).mono
    (Kept.refl _ _)) ?_
  exact (capCheck_kept ..).mono

theorem takeReport_kept (r : DriveReport) (s : State) : Kept driveReports s (takeReport r s) :=
  (telling_kept (reportWork_kept r s)).mono

theorem recallRecord_kept (s : State) (r : Nat) : Kept [.jobs, .noticeRecords, .spindleStates] s (recallRecord s r) := by
  unfold recallRecord
  split
  · split
    · exact Kept.refl _ s
    · exact Kept.trans (setPiece_kept ..).mono (setState_kept ..).mono
  · exact Kept.refl _ s

theorem moveTo_kept (d : Carriage) (s : State) (r : Nat) : Kept [.jobs, .noticeRecords] s (moveTo d s r) := by
  unfold moveTo
  split
  · exact Kept.ite (setPiece_kept ..) (Kept.refl _ s)
  · exact Kept.refl _ s

theorem carriageRecords_kept (c : Carriage) (s : State) : Kept offers s (carriageRecords c s) :=
  Kept.trans (Kept.foldl (fun s r => (recallRecord_kept s r).mono) _ s)
    (Kept.trans (Kept.foldl (fun s r => (moveTo_kept c.other s r).mono) _ _) (offerTest_kept ..))

theorem carriageAbsent_kept (c : Carriage) (s : State) : Kept doffEntries s (carriageAbsent c s) := by
  refine Kept.trans (carriageRecords_kept c s).mono (Kept.ite ?_ (Kept.refl _ _))
  exact Kept.trans (setParkMark_kept ..).mono (testWait_kept _)

theorem carriagePresent_kept (c : Carriage) (s : State) : Kept doffEntries s (carriagePresent c s) := by
  refine Kept.trans (offerTest_kept c s).mono (Kept.trans (place_kept ..).mono (Kept.ite ?_ (Kept.refl _ _)))
  exact Kept.trans (setParkMark_kept ..).mono (testWait_kept _)

theorem transportAbsent_kept (s : State) : Kept callings s (transportAbsent s) := by
  unfold transportAbsent
  split
  · exact Kept.trans (setRequest_kept ..).mono (callTest_kept ..)
  · exact Kept.refl _ s

theorem ownerAbsent_kept (a : Agent) (s : State) : Kept doffEntries s (ownerAbsent a s) := by
  unfold ownerAbsent
  split
  case isFalse => exact Kept.refl _ s
  cases a
  · exact carriageAbsent_kept ..
  · exact carriageAbsent_kept ..
  · exact Kept.refl _ s
  · exact (transportAbsent_kept s).mono

theorem ownerPresent_kept (a : Agent) (s : State) : Kept doffEntries s (ownerPresent a s) := by
  unfold ownerPresent
  split
  case isFalse => exact Kept.refl _ s
  cases a
  · exact carriagePresent_kept ..
  · exact carriagePresent_kept ..
  · exact Kept.refl _ s
  · exact (bayOfferTest_kept s).mono

/-! ## The clock (chapter 9) -/

theorem carryClock_kept (c : Scs) (s : State)
    (h : c.valid = s.scs.valid ∧ c.trim = s.scs.trim ∧ c.shifts = s.scs.shifts ∧ c.openShift = s.scs.openShift
      ∧ c.history = s.scs.history) : Kept (.time :: reports) s (carryClock c s) := by
  obtain ⟨h1, h2, h3, h4, h5⟩ := h
  refine Kept.trans ⟨fun a ha => ?_⟩ (saturated_kept _ _).mono
  cases a <;> first
    | exact (ha (by decide)).elim
    | exact rfl
    | exact ⟨rfl, rfl⟩
    | exact fun _ => rfl
    | (simp only [Area.same, Scs.carryHours, Scs.carryMinutes]; split <;> split <;> assumption)

theorem advanceTime_kept (s : State) : Kept (.time :: reports) s (advanceTime s) := by
  refine carryClock_kept _ s ?_
  unfold Scs.riseSeconds
  split <;> exact ⟨rfl, rfl, rfl, rfl, rfl⟩

theorem countTimers_kept (s : State) :
    Kept [.jobs, .noticeRecords, .presence, .parkTimer, .doffTimer, .slotTimer] s (countTimers s) := by
  refine ⟨fun a ha => ?_⟩
  cases a <;> first | exact (ha (by decide)).elim | exact rfl | exact ⟨rfl, rfl⟩ | exact fun _ => rfl

theorem shiftTest_kept (s : State) : Kept shiftCloses s (shiftTest s) := by
  unfold shiftTest
  split
  · split
    · exact Kept.ite (Kept.refl _ s) (closeShift_kept ..)
    · exact Kept.refl _ s
  · exact Kept.refl _ s

theorem secondEvent_kept (s : State) : Kept secondEvents s (secondEvent s) :=
  Kept.trans (advanceTime_kept s).mono (Kept.trans (countTimers_kept _).mono (shiftTest_kept _).mono)

theorem setTrim_kept (t : Trim) (s : State) : Kept [.trim] s (setTrim t s) := by
  refine ⟨fun a ha => ?_⟩
  cases a <;> first | exact (ha (by decide)).elim | exact rfl | exact ⟨rfl, rfl⟩ | exact fun _ => rfl

theorem setSub_kept (n : Nat) (s : State) : Kept [.time] s (setSub n s) := by
  refine ⟨fun a ha => ?_⟩
  cases a <;> first | exact (ha (by decide)).elim | exact rfl | exact ⟨rfl, rfl⟩ | exact fun _ => rfl

theorem endTrim_kept (cv outcome : Int) (s : State) : Kept (.trim :: reports) s (endTrim cv outcome s) :=
  Kept.trans (setTrim_kept ..).mono (raise_kept ..).mono

theorem wrapSub_kept (s : State) : Kept (.trim :: secondEvents) s (wrapSub s) := by
  unfold wrapSub
  split
  · exact Kept.trans (setSub_kept ..).mono (endTrim_kept ..).mono
  · exact Kept.trans (setSub_kept ..).mono (secondEvent_kept _).mono

theorem advanceSub_kept (s : State) : Kept (.trim :: secondEvents) s (advanceSub s).state := by
  unfold advanceSub
  split
  · exact (setSub_kept ..).mono
  · exact wrapSub_kept s

theorem applyTrim_kept (cv : Int) (s : State) : Kept (.trim :: secondEvents) s (applyTrim cv s).state := by
  unfold applyTrim
  dsimp only
  split
  · exact Kept.trans (setSub_kept ..).mono (setTrim_kept ..).mono
  · split
    · exact Kept.trans (setSub_kept ..).mono (endTrim_kept ..).mono
    · exact Kept.trans (setSub_kept ..).mono (Kept.trans (secondEvent_kept _).mono (endTrim_kept ..).mono)

theorem subStep_kept (s : State) : Kept (.trim :: secondEvents) s (subStep s).state := by
  unfold subStep
  dsimp only
  split
  · exact Kept.trans (advanceSub_kept s) (applyTrim_kept ..)
  · exact advanceSub_kept s

theorem nextSecond_kept (s : State) : Kept (.trim :: secondEvents) s (nextSecond s) := by
  unfold nextSecond
  split
  · dsimp only
    split
    · exact subStep_kept s
    · exact Kept.trans (subStep_kept s) (Kept.trans (setSub_kept ..).mono (subStep_kept _))
  · exact Kept.trans (setSub_kept ..).mono (subStep_kept _)

theorem discardOwed_kept (s : State) : Kept (.trim :: reports) s (discardOwed s) := by
  unfold discardOwed
  split
  · exact endTrim_kept ..
  · exact Kept.refl _ s

/-! ## The end of a command (R207, R199) -/

theorem refreshLamps_kept (s : State) : Kept [.lamps] s (refreshLamps s) := by
  refine ⟨fun a ha => ?_⟩
  cases a <;> first | exact (ha (by decide)).elim | exact rfl | exact ⟨rfl, rfl⟩ | exact fun _ => rfl

/-- A command's outcome, and the frame of its work with the lamps added. -/
theorem finish_next {C : List Area} {s t : State} (h : Kept C s t) (hc : C.contains .lamps = true) :
    ∃ u, finish t = .next u ∧ Kept C s u :=
  ⟨_, rfl, h.trans ((refreshLamps_kept t).mono (by simpa [within] using hc))⟩

end Sys2Proof.Safety
end

