-- ==== Sys2Proof/Laws/FramesLines.lean ====
section
/-! SUPPORT. What the commands of the links, the agents' frames and the timers can touch. -/

namespace Sys2Proof.Safety

set_option Elab.async false

open Sys2Proof.Machine

/-! ## The frame link (chapter 10) -/

theorem countUnknown_kept (s : State) : Kept (.linkErrors :: reports) s (countUnknown s) := by
  refine Kept.trans ⟨fun a ha => ?_⟩ (saturated_kept _ _).mono
  cases a <;> first | exact (ha (by decide)).elim | exact rfl | exact ⟨rfl, rfl⟩ | exact fun _ => rfl

theorem countLinkError_kept (s : State) : Kept (.linkErrors :: reports) s (countLinkError s) := by
  refine Kept.trans ⟨fun a ha => ?_⟩ (saturated_kept _ _).mono
  cases a <;> first | exact (ha (by decide)).elim | exact rfl | exact ⟨rfl, rfl⟩ | exact fun _ => rfl

theorem forwardSurvey_kept (mode : ForwardMode) (f : LineFrame) (sv : Survey) (t : SurveyTaken) :
    Kept (.linkErrors :: reports) t.state (forwardSurvey mode f sv t) := by
  cases mode
  · exact placeForward_kept ..
  · exact Kept.ite (placeForward_kept ..) (Kept.refl _ _)
  · exact Kept.refl _ _

theorem takeSurvey_kept (f : LineFrame) (s : State) : Kept (.linkErrors :: surveys) s (takeSurvey f s) := by
  unfold takeSurvey
  dsimp only
  split
  · exact (placeForward_kept ..).mono
  · split
    · exact (countUnknown_kept s).mono
    · exact Kept.trans (classify_kept ..).mono (forwardSurvey_kept ..).mono

theorem takeSensorReply_kept (f : LineFrame) (s : State) : Kept (.linkErrors :: reports) s (takeSensorReply f s) :=
  Kept.ite (placeForward_kept ..) (countForwardDrop_kept s)

theorem endDown_kept (s : State) : Kept [.drive, .pass, .down] s (endDown s) := by
  unfold endDown
  split
  · refine Kept.trans (t := { s with fli := { s.fli with down := none } }) ⟨fun a ha => ?_⟩ (downBegin_kept _)
    cases a <;> first | exact (ha (by decide)).elim | exact rfl | exact ⟨rfl, rfl⟩ | exact fun _ => rfl
  · exact Kept.refl _ s

/-! ## The service line (chapter 5) -/

theorem setLine_kept (l : LineState) (s : State) : Kept [.line] s (setLine l s) := by
  refine ⟨fun a ha => ?_⟩
  cases a <;> first | exact (ha (by decide)).elim | exact rfl | exact ⟨rfl, rfl⟩ | exact fun _ => rfl

theorem countClash_kept (s : State) : Kept (.serviceErrors :: reports) s (countClash s) := by
  refine Kept.trans ⟨fun a ha => ?_⟩ (saturated_kept _ _).mono
  cases a <;> first | exact (ha (by decide)).elim | exact rfl | exact ⟨rfl, rfl⟩ | exact fun _ => rfl

theorem carrierRise_kept (s : State) : Kept (.line :: .serviceErrors :: reports) s (carrierRise s) := by
  unfold carrierRise
  split
  · exact (setLine_kept ..).mono
  · exact Kept.refl _ s
  · exact Kept.trans (setLine_kept ..).mono (Kept.ite (Kept.refl _ _) (countClash_kept _).mono)

theorem countServiceError_kept (s : State) : Kept (.serviceErrors :: reports) s (countServiceError s) := by
  refine Kept.trans ⟨fun a ha => ?_⟩ (saturated_kept _ _).mono
  cases a <;> first | exact (ha (by decide)).elim | exact rfl | exact ⟨rfl, rfl⟩ | exact fun _ => rfl

theorem countServiceOverflow_kept (s : State) : Kept (.serviceErrors :: reports) s (countServiceOverflow s) := by
  refine Kept.trans ⟨fun a ha => ?_⟩ (saturated_kept _ _).mono
  cases a <;> first | exact (ha (by decide)).elim | exact rfl | exact ⟨rfl, rfl⟩ | exact fun _ => rfl

theorem setPresence_kept (x : Agent) (v : Option Nat) (s : State) :
    Kept [.presence] s { s with slc := { s.slc with presence := s.slc.presence.put x v } } := by
  refine ⟨fun a ha => ?_⟩
  cases a <;> first | exact (ha (by decide)).elim | exact rfl | exact ⟨rfl, rfl⟩ | exact fun _ => rfl

theorem refreshAgent_kept (x : Agent) (s : State) : Kept (.presence :: doffEntries) s (refreshAgent x s) := by
  refine Kept.trans (setPresence_kept ..).mono (Kept.ite (Kept.refl _ _) ?_)
  exact Kept.trans (raise_kept ..).mono (ownerPresent_kept ..).mono

theorem joinReceive_kept (x : Agent) (f : LineFrame) (s : State) :
    Kept (.serviceRx :: .serviceErrors :: .cond .slcLevel :: reports) s (joinReceive x f s) := by
  unfold joinReceive
  split
  · refine Kept.trans ⟨fun a ha => ?_⟩ (testLevel_kept _).mono
    cases a <;> first | exact (ha (by decide)).elim | exact rfl | exact ⟨rfl, rfl⟩ | exact fun _ => rfl
  · exact (countServiceOverflow_kept s).mono

/-- What the hearing of a frame on the service line may touch (R97 to R99). -/
def hearings : List Area := .presence :: .serviceRx :: .serviceErrors :: .cond .slcLevel :: doffEntries

theorem judgeHeard_kept (heard : List Byte) (s : State) : Kept hearings s (judgeHeard heard s) := by
  unfold judgeHeard
  split
  · exact Kept.ite (Kept.refl _ s) (countServiceError_kept s).mono
  · split
    · split
      · exact Kept.trans (refreshAgent_kept ..).mono (joinReceive_kept ..).mono
      · exact Kept.refl _ s
    · exact (countServiceError_kept s).mono
    · exact Kept.refl _ s

theorem carrierFall_kept (heard : List Byte) (s : State) : Kept (.line :: hearings) s (carrierFall heard s) := by
  unfold carrierFall
  split
  · exact Kept.refl _ s
  · exact Kept.trans (setLine_kept ..).mono (Kept.ite (judgeHeard_kept ..).mono (Kept.refl _ _))
  · exact (setLine_kept ..).mono

theorem quietFor_kept (ms : Nat) (s : State) : Kept serviceTurns s (quietFor ms s) := by
  unfold quietFor
  split
  · exact Kept.trans (setLine_kept ..).mono (serviceTurn_kept _)
  · exact Kept.refl _ s

theorem endService_kept (s : State) : Kept [.line] s (endService s) := by
  unfold endService
  split
  · exact setLine_kept ..
  · exact Kept.refl _ s

theorem agentSilent_kept (x : Agent) (s : State) : Kept (.presence :: doffEntries) s (agentSilent x s) := by
  unfold agentSilent
  split
  · exact Kept.trans (setPresence_kept ..).mono (Kept.trans (raise_kept ..).mono (ownerAbsent_kept ..).mono)
  · exact Kept.refl _ s

/-! ## Agents' frames (chapters 4, 6, 7) -/

/-- What the leaving of a frame from the receive queue may touch (R100, R101). -/
def leaves : List Area := .serviceRx :: .cond .slcLevel :: reports

theorem leave_kept (rest : List RxFrame) (s : State) :
    Kept leaves s (testLevel { s with slc := { s.slc with rx := rest } }) := by
  refine Kept.trans ⟨fun a ha => ?_⟩ (testLevel_kept _).mono
  cases a <;> first | exact (ha (by decide)).elim | exact rfl | exact ⟨rfl, rfl⟩ | exact fun _ => rfl

/-- A frame handed on changes what its effect changes, and leaves the queue. -/
theorem deliver_kept {C : List Area} {take : RxFrame → Option (State → State)} {s : State}
    (h : ∀ f e, take f = some e → Kept C s (e s)) (hc : within leaves C = true := by decide) :
    Kept C s (deliver take s) := by
  unfold deliver
  split
  · exact Kept.refl _ s
  · split
    · next he => exact Kept.trans (h _ _ he) ((leave_kept ..).mono hc)
    · exact Kept.refl _ s

theorem modReport_kept (c : Carriage) (f : CarriageUnit → CarriageUnit) (s : State)
    (h : ∀ u, carriageTable (f u) = carriageTable u ∧ (f u).nextTag = u.nextTag) :
    Kept [.carriageStatus] s (modCarriage c f s) := by
  refine ⟨fun a ha => ?_⟩
  cases c <;> cases a <;> first
    | exact (ha (by decide)).elim
    | exact rfl
    | exact ⟨rfl, rfl⟩
    | exact fun d => by cases d <;> first | rfl | exact (h _).1 | exact (h _).2

theorem clearSkips_kept (c : Carriage) (s : State) : Kept [.jobs, .noticeRecords] s (clearSkips c s) := by
  refine ⟨fun a ha => ?_⟩
  cases a <;> first | exact (ha (by decide)).elim | exact rfl | exact ⟨rfl, rfl⟩ | exact fun _ => rfl

theorem carriageStatus_kept (c : Carriage) (p d m : Nat) (s : State) :
    Kept (.carriageStatus :: offers) s (carriageStatus c p d m s) := by
  refine Kept.trans (modReport_kept c (fun u => u.reported p d m) s fun _ => ⟨rfl, rfl⟩).mono ?_
  refine Kept.trans ?_ (offerTest_kept ..).mono
  exact Kept.ite (Kept.refl _ _) (clearSkips_kept ..).mono

theorem transportStatus_kept (m : Nat) (s : State) : Kept (.transportMode :: callings) s (transportStatus m s) := by
  refine Kept.trans (t := { s with rvm := { s.rvm with mode := (AgentMode.ofCode? m).getD s.rvm.mode } })
    ⟨fun a ha => ?_⟩ (Kept.ite (bayOfferTest_kept _).mono (Kept.refl _ _))
  cases a <;> first | exact (ha (by decide)).elim | exact rfl | exact ⟨rfl, rfl⟩ | exact fun _ => rfl

theorem dofferStatus_kept (m : Nat) (s : State) : Kept [.doffer] s (dofferStatus m s) := by
  refine ⟨fun a ha => ?_⟩
  cases a <;> first | exact (ha (by decide)).elim | exact rfl | exact ⟨rfl, rfl⟩ | exact fun _ => rfl

theorem jobAccept_kept (c : Carriage) (t : Nat) (s : State) : Kept serviceTurns s (jobAccept c t s) := by
  unfold jobAccept
  split
  · exact placeTold_kept ..
  · split
    · split
      · exact (setPiece_kept ..).mono
      · exact Kept.refl _ s
    · exact Kept.refl _ s

theorem jobDecline_kept (c : Carriage) (t : Nat) (s : State) : Kept offers s (jobDecline c t s) := by
  unfold jobDecline
  split
  · exact requeue_kept ..
  · exact Kept.refl _ s

theorem reclass_kept (r : Nat) (s : State) : Kept sweeps s (reclass r s) := by
  unfold reclass
  split
  · exact Kept.refl _ s
  · split
    · exact Kept.trans (setRecord_kept ..).mono (Kept.trans (setState_kept ..).mono (Kept.trans (testPoolLow_kept _).mono
        (markEmpty_kept ..).mono))
    · exact Kept.trans (setState_kept ..).mono (Kept.trans (free_kept ..) (markEmpty_kept ..).mono)

theorem toVerify_kept (c : Carriage) (r : Nat) (s : State) :
    Kept [.jobs, .noticeRecords, .spindleStates] s (toVerify c r s) := by
  unfold toVerify
  split
  · exact Kept.trans (setPiece_kept ..).mono (setState_kept ..).mono
  · exact Kept.refl _ s

theorem settleResult_kept (c : Carriage) (r code : Nat) (s : State) : Kept closings s (settleResult c r code s) := by
  unfold settleResult
  refine Kept.ite (toVerify_kept ..).mono (Kept.ite (chargedAttempt_kept ..) (Kept.ite (reclass_kept ..).mono ?_))
  exact (requeue_kept ..).mono

theorem jobResult_kept (c : Carriage) (t code : Nat) (s : State) : Kept closings s (jobResult c t code s) := by
  unfold jobResult
  split
  · exact Kept.trans (place_kept ..).mono (Kept.trans (settleResult_kept ..) (offerTest_kept ..).mono)
  · exact (placeTold_kept ..).mono

theorem carriageParks_kept (c : Carriage) (s : State) : Kept (.carriageStatus :: doffEntries) s (carriageParks c s) := by
  refine Kept.trans (modReport_kept c (fun u => { u with mode := .parked }) s fun _ => ⟨rfl, rfl⟩).mono ?_
  refine Kept.ite (Kept.trans ?_ (testWait_kept _).mono) (Kept.refl _ _)
  exact Kept.ite (setParkMark_kept ..).mono (Kept.refl _ _)

theorem notDoffing_kept (s : State) : Kept (sends ++ reports) s (notDoffing s) :=
  Kept.ite (Kept.refl _ s) (place_kept ..)

theorem doffProgress_kept (n : Nat) (s : State) : Kept (.progress :: sends ++ reports) s (doffProgress n s) := by
  unfold doffProgress
  split
  · refine ⟨fun a ha => ?_⟩
    cases a <;> first | exact (ha (by decide)).elim | exact rfl | exact ⟨rfl, rfl⟩ | exact fun _ => rfl
  · exact (notDoffing_kept s).mono

theorem doffDone_kept (s : State) : Kept (.doffTimer :: doffCompletions) s (doffDone s) := by
  unfold doffDone
  split
  · exact Kept.trans (dropDoffTimer_kept s).mono (completeDoff_kept _).mono
  · exact (notDoffing_kept s).mono

theorem doffFaulted_kept (s : State) : Kept (.doffTimer :: doffMoves) s (doffFaulted s) := by
  unfold doffFaulted
  split
  · exact Kept.trans (dropDoffTimer_kept s).mono (moveDoff_kept ..).mono
  · exact Kept.refl _ s

theorem bayAccepted_kept (b : Nat) (s : State) : Kept serviceTurns s (bayAccepted b s) := by
  unfold bayAccepted
  split
  · exact Kept.refl _ s
  · split
    · split
      · exact (setRequest_kept ..).mono
      · exact Kept.refl _ s
      · exact placeTold_kept ..
      · exact placeTold_kept ..
    · exact placeTold_kept ..

theorem rovingReturn_kept (n : Nat) (s : State) : Kept sweeps s (rovingReturn n s) := by
  unfold rovingReturn
  dsimp only
  split
  · exact Kept.trans (free_kept ..) (requestBreak_kept ..)
  · exact requestBreak_kept ..

theorem replaced_kept (s : State) (n : Nat) : Kept sweeps s (replaced s n) := by
  unfold replaced
  refine Kept.trans (refill_kept n s).mono ?_
  dsimp only
  split
  · exact rovingReturn_kept ..
  · exact (setState_kept ..).mono
  · exact Kept.refl _ _

theorem dropRequest_kept (r : Nat) (s : State) : Kept (.jobs :: .requests :: reports) s (dropRequest r s) := by
  refine Kept.trans (t := { s with rvm := { s.rvm with requests := s.rvm.requests.filter fun x => x ≠ r } })
    ⟨fun a ha => ?_⟩ (freeQuiet_kept ..).mono
  cases a <;> first | exact (ha (by decide)).elim | exact rfl | exact ⟨rfl, rfl⟩ | exact fun _ => rfl

theorem bayFinished_kept (r : Nat) (q : BayRequest) (offsets : List Nat) (s : State) :
    Kept (.baysDone :: sweeps) s (bayFinished r q offsets s) := by
  unfold bayFinished
  dsimp only
  refine Kept.trans (Kept.foldl (fun s n => (replaced_kept s n).mono) (takenPositions q offsets) s) ?_
  refine Kept.trans (dropRequest_kept r _).mono (Kept.trans (sweep_kept _).mono (Kept.trans (addBaysDone_kept _).mono ?_))
  exact Kept.trans (raise_kept ..).mono (Kept.trans (callTest_kept ..).mono (bayOfferTest_kept _).mono)

theorem bayDone_kept (b : Nat) (offsets : List Nat) (s : State) : Kept (.baysDone :: sweeps) s (bayDone b offsets s) := by
  unfold bayDone
  split
  · exact Kept.refl _ s
  · split
    · exact Kept.ite (bayFinished_kept ..) (placeTold_kept ..).mono
    · exact (placeTold_kept ..).mono

theorem bayRefused_kept (b : Nat) (s : State) : Kept callings s (bayRefused b s) := by
  unfold bayRefused
  split
  · exact Kept.ite (Kept.trans (setRequest_kept ..).mono (bayOfferTest_kept _)) (Kept.refl _ s)
  · exact Kept.refl _ s

/-! ## The mill link (chapter 11) -/

theorem countMillError_kept (s : State) : Kept (.millErrors :: reports) s (countMillError s) := by
  refine Kept.trans ⟨fun a ha => ?_⟩ (saturated_kept _ _).mono
  cases a <;> first | exact (ha (by decide)).elim | exact rfl | exact ⟨rfl, rfl⟩ | exact fun _ => rfl

theorem countMillOverflow_kept (s : State) : Kept (.millErrors :: reports) s (countMillOverflow s) := by
  refine Kept.trans ⟨fun a ha => ?_⟩ (saturated_kept _ _).mono
  cases a <;> first | exact (ha (by decide)).elim | exact rfl | exact ⟨rfl, rfl⟩ | exact fun _ => rfl

theorem joinMill_kept (f : LineFrame) (s : State) : Kept (.millRx :: .millErrors :: reports) s (joinMill f s) := by
  unfold joinMill
  split
  · refine ⟨fun a ha => ?_⟩
    cases a <;> first | exact (ha (by decide)).elim | exact rfl | exact ⟨rfl, rfl⟩ | exact fun _ => rfl
  · exact (countMillOverflow_kept s).mono

theorem adopt_kept (n : Nat) (s : State) : Kept (.frameNumber :: millSends) s (adopt n s) := by
  refine Kept.trans (t := { s with mfh := { s.mfh with frameNumber := some n } }) ⟨fun a ha => ?_⟩ (millBegin_kept _).mono
  cases a <;> first | exact (ha (by decide)).elim | exact rfl | exact ⟨rfl, rfl⟩ | exact fun _ => rfl

theorem millReceived_kept (bytes : List Byte) (s : State) :
    Kept (.frameNumber :: .millRx :: .millErrors :: reports) s (millReceived bytes s) := by
  unfold millReceived
  split
  · unfold takeMill
    split
    · exact Kept.ite (joinMill_kept ..).mono (Kept.refl _ s)
    · exact Kept.ite (Kept.trans (joinMill_kept ..).mono (adopt_kept ..).mono) (Kept.refl _ s)
  · exact (countMillError_kept s).mono
  · exact Kept.refl _ s

theorem millEnd_kept (s : State) : Kept sweeps s (millEnd s) := by
  unfold millEnd
  split
  · next tx _ =>
    dsimp only
    refine Kept.trans (t := freeSent tx s) ?_ (Kept.trans ⟨fun a ha => ?_⟩ (millBegin_kept _).mono)
    · unfold freeSent
      split
      · exact free_kept ..
      · exact Kept.refl _ s
      · exact Kept.refl _ s
    · cases a <;> first | exact (ha (by decide)).elim | exact rfl | exact ⟨rfl, rfl⟩ | exact fun _ => rfl
  · exact Kept.refl _ s

/-! ## Timers -/

theorem acceptExpiry_kept (r : Nat) (s : State) : Kept offers s (acceptExpiry r s) := by
  unfold acceptExpiry
  split
  · split
    · exact Kept.trans (place_kept ..).mono (requeue_kept ..)
    · exact Kept.refl _ s
  · exact Kept.refl _ s

theorem resultExpiry_kept (r : Nat) (s : State) : Kept closings s (resultExpiry r s) := by
  unfold resultExpiry
  split
  · split
    · exact Kept.trans (place_kept ..).mono (chargedAttempt_kept ..)
    · exact Kept.refl _ s
  · exact Kept.refl _ s

theorem verifyExpiry_kept (r : Nat) (s : State) : Kept closings s (verifyExpiry r s) := by
  unfold verifyExpiry
  split
  · exact Kept.ite (chargedAttempt_kept ..) (Kept.refl _ s)
  · exact Kept.refl _ s

theorem bayExpiry_kept (due : BayPhase) (b : Nat) (s : State) : Kept callings s (bayExpiry due b s) := by
  unfold bayExpiry
  split
  · exact Kept.ite (Kept.trans (place_kept ..).mono (returnToWaiting_kept ..)) (Kept.refl _ s)
  · exact Kept.refl _ s

theorem retryExpiry_kept (b : Nat) (s : State) : Kept callings s (retryExpiry b s) := by
  unfold retryExpiry
  split
  · exact Kept.ite (returnToWaiting_kept ..) (Kept.refl _ s)
  · exact Kept.refl _ s

theorem parkExpiry_kept (s : State) : Kept (.parkTimer :: doffMoves) s (parkExpiry s) := by
  unfold parkExpiry
  split
  · refine Kept.trans (t := { s with dfs := { s.dfs with parkTimer := none } }) ⟨fun a ha => ?_⟩ (moveDoff_kept ..).mono
    cases a <;> first | exact (ha (by decide)).elim | exact rfl | exact ⟨rfl, rfl⟩ | exact fun _ => rfl
  · exact Kept.refl _ s

theorem doffExpiry_kept (s : State) : Kept (.doffTimer :: sends ++ doffMoves) s (doffExpiry s) := by
  unfold doffExpiry
  split
  · exact Kept.trans (dropDoffTimer_kept s).mono (Kept.trans (place_kept ..).mono (moveDoff_kept ..).mono)
  · exact Kept.refl _ s

theorem slotEnd_kept (s : State) :
    Kept (.window :: .openSlot :: .slotTimer :: .lastRate :: .governor :: capSends) s (slotEnd s) := by
  unfold slotEnd
  split
  · exact Kept.trans (rollSlot_kept s).mono (evaluate_kept _).mono
  · exact Kept.refl _ s

theorem toggleLamp_kept (l : Lamp) (s : State) : Kept [.lamps] s (toggleLamp l s) := by
  refine ⟨fun a ha => ?_⟩
  cases a <;> first | exact (ha (by decide)).elim | exact rfl | exact ⟨rfl, rfl⟩ | exact fun _ => rfl

end Sys2Proof.Safety
end

