-- ==== Sys2Proof/Laws/FramesCommands.lean ====
section
/-! SUPPORT. What the management commands can touch, and what the answering of a management frame comes to. -/

namespace Sys2Proof.Safety

set_option Elab.async false

open Sys2Proof.Machine

/-! ## The answer (R199) -/

/-- A frame at the head of the receive queue, of the row asked for, is executed. -/
theorem manage_ready {row : Instr} {body : LineFrame → State → Reply} {f : LineFrame} {rest : List LineFrame} {s : State}
    (h : Ready f rest s) (hr : rowOf f = row) : manage row body s = respond f rest (body f s) := by
  obtain ⟨h1, h2⟩ := h
  simp [manage, h1, h2, hr]

/-- Answering touches the mill link's queue, slot and transmission alone. -/
theorem respond_kept (f : LineFrame) (rest : List LineFrame) (r : Reply) :
    Kept [.millRx, .slot, .millTx] r.state (respond f rest r) := by
  refine Kept.trans
    (t := { r.state with mfh := { r.state.mfh with rx := rest, slot := some (responseTo f r.payload) } })
    ⟨fun a ha => ?_⟩ ?_
  · cases a <;> first | exact (ha (by decide)).elim | exact rfl | exact ⟨rfl, rfl⟩ | exact fun _ => rfl
  · unfold respond millBegin
    split
    · exact (beginResponse_kept ..).mono
    · exact Kept.refl _ _

/-- The response waits in the slot or is in transmission. -/
theorem respond_answered (f : LineFrame) (rest : List LineFrame) (r : Reply) :
    Answered f rest r.payload (refreshLamps (respond f rest r)) := by
  unfold respond millBegin
  split
  · next n h1 h2 => exact ⟨rfl, .inr ⟨rfl, n, h2, rfl⟩⟩
  · exact ⟨rfl, .inl rfl⟩

/-- What the execution of a management frame comes to: the answer, over the state that its body gives. -/
theorem manage_finish {row : Instr} {body : LineFrame → State → Reply} {f : LineFrame} {rest : List LineFrame} {s : State}
    (h : Ready f rest s) (hr : rowOf f = row) :
    ∃ t, finish (manage row body s) = .next t ∧ Answered f rest (body f s).payload t
      ∧ Kept answers (body f s).state t := by
  refine ⟨refreshLamps (respond f rest (body f s)), by rw [manage_ready h hr, finish], respond_answered .., ?_⟩
  exact Kept.trans (respond_kept ..).mono (refreshLamps_kept _).mono

/-! ## Accepted writes -/

theorem eachEntry_kept {α : Type} {C : List Area} {f : Nat → α → State → State} (h : ∀ i a s, Kept C s (f i a s)) :
    ∀ (i : Nat) (l : List α) (s : State), Kept C s (eachEntry f i l s)
  | _, [], s => Kept.refl C s
  | i, a :: l, s => (h i a s).trans (eachEntry_kept h (i + 1) l _)

theorem writeSection_kept (b : Nat) (e : SectionEntry) (s : State) : Kept [.sectionTable] s (writeSection b e s) := by
  refine ⟨fun a ha => ?_⟩
  cases a <;> first
    | exact (ha (by decide)).elim
    | exact rfl
    | exact ⟨rfl, rfl⟩
    | exact fun _ => rfl
    | exact map_modify_same _ _ (by intro _; rfl) _ _

theorem writeSpindle_kept (n : Nat) (e : SpindleEntry) (s : State) :
    Kept (.spindleTable :: .flags :: closings) s (writeSpindle n e s) := by
  unfold writeSpindle
  dsimp only
  refine Kept.trans (t := modSpindle n (fun x => { x with inUse := e.inUse, clampFitted := e.clampFitted }) s)
    ⟨fun a ha => ?_⟩ ?_
  · cases a <;> first
      | exact (ha (by decide)).elim
      | exact rfl
      | exact ⟨rfl, rfl⟩
      | exact fun _ => rfl
      | exact map_modify_same _ _ (by intro _; rfl) _ _
  · refine Kept.ite (Kept.ite (Kept.ite ?_ (Kept.refl _ _)) (Kept.ite (Kept.refl _ _) ?_)) (Kept.refl _ _)
    · exact (unblank_kept ..).mono
    · exact (blank_kept ..).mono

theorem withdrawHere_kept (s : State) (r : Nat) : Kept offers s (withdrawHere s r) := by
  unfold withdrawHere
  split
  · exact Kept.ite (Kept.trans (cancelOffer_kept ..).mono (Kept.trans (setPiece_kept ..).mono (setState_kept ..).mono))
      (Kept.refl _ s)
  · exact Kept.refl _ s

theorem testZone_kept (c d : Carriage) (s : State) (r : Nat) : Kept [.jobs, .noticeRecords] s (testZone c d s r) := by
  unfold testZone
  split
  · split
    · exact Kept.ite (Kept.refl _ s) (Kept.ite (setPiece_kept ..) (setPiece_kept ..))
    · exact Kept.refl _ s
  · exact Kept.refl _ s

theorem changeZone_kept (c : Carriage) (was : Bool) (s : State) : Kept offers s (changeZone c was s) := by
  unfold changeZone
  dsimp only
  refine Kept.trans (Kept.cond ((was && !(carriage c s).enabled) = true)
    (Kept.foldl (fun s r => withdrawHere_kept s r) (recordsOf c s) s) (Kept.refl _ s)) ?_
  generalize (if (was && !(carriage c s).enabled) = true then (recordsOf c s).foldl withdrawHere s else s) = s1
  refine Kept.trans (Kept.foldl (fun s r => (testZone_kept c c.other s r).mono) (recordsOf c s1) s1) ?_
  exact Kept.foldl (fun s r => (assignQuiet_kept r s).mono) _ _

theorem writeCarriage_kept (i : Nat) (e : CarriageEntry) (s : State) :
    Kept (.carriageTables :: offers) s (writeCarriage i e s) := by
  unfold writeCarriage
  dsimp only
  generalize (if i = 1 then Carriage.pc1 else Carriage.pc2) = c
  refine Kept.trans (t := modCarriage c (fun u => u.takes e) s) ⟨fun a ha => ?_⟩ ?_
  · cases c <;> cases a <;> first
      | exact (ha (by decide)).elim
      | exact rfl
      | exact ⟨rfl, rfl⟩
      | exact fun d => by cases d <;> rfl
  · refine Kept.ite ?_ (Kept.refl _ _)
    refine Kept.trans ?_ (offerTests_kept _).mono
    exact Kept.ite (Kept.refl _ _) (changeZone_kept ..).mono

theorem writeDetection_kept (e : Detection) (s : State) : Kept [.detection] s (writeDetection e s) := by
  refine ⟨fun a ha => ?_⟩
  cases a <;> first | exact (ha (by decide)).elim | exact rfl | exact ⟨rfl, rfl⟩ | exact fun _ => rfl

theorem writeMarks_kept (e : RovingMarks) (s : State) : Kept (.marks :: .roving :: callings) s (writeMarks e s) := by
  refine Kept.trans (t := { s with rvm := { s.rvm with marks := e } }) ⟨fun a ha => ?_⟩
    (Kept.ite (Kept.trans (redraw_kept ..).mono (callTests_kept ..).mono) (Kept.refl _ _))
  cases a <;> first | exact (ha (by decide)).elim | exact rfl | exact ⟨rfl, rfl⟩ | exact fun _ => rfl

theorem writeDoffTimers_kept (e : DoffTimers) (s : State) : Kept [.doffTimers] s (writeDoffTimers e s) := by
  refine ⟨fun a ha => ?_⟩
  cases a <;> first | exact (ha (by decide)).elim | exact rfl | exact ⟨rfl, rfl⟩ | exact fun _ => rfl

theorem writeStopAction_kept (i : Nat) (e : StopAction) (s : State) : Kept [.stops] s (writeStopAction i e s) := by
  refine ⟨fun a ha => ?_⟩
  cases a <;> first | exact (ha (by decide)).elim | exact rfl | exact ⟨rfl, rfl⟩ | exact fun _ => rfl

theorem writeGovernor_kept (e : GovernorTable) (s : State) : Kept [.governorTable] s (writeGovernor e s) := by
  refine ⟨fun a ha => ?_⟩
  cases a <;> first | exact (ha (by decide)).elim | exact rfl | exact ⟨rfl, rfl⟩ | exact fun _ => rfl

theorem writeSpeedSteps_kept (start : Nat) (l : List Nat) (s : State) :
    Kept (.steps :: capSends) s (writeSpeedSteps start l s).state := by
  have h : Kept (.steps :: capSends) s { s with sgv := { s.sgv with steps := overwrite s.sgv.steps start l } } := by
    refine ⟨fun a ha => ?_⟩
    cases a <;> first | exact (ha (by decide)).elim | exact rfl | exact ⟨rfl, rfl⟩ | exact fun _ => rfl
  unfold writeSpeedSteps
  dsimp only
  split
  · split
    · exact Kept.refl _ s
    · exact Kept.trans h (Kept.ite (Kept.refl _ _) (sendCap_kept _).mono)
  · exact h

theorem writeShift_kept (start : Nat) (l : List (Option Nat)) (s : State) :
    Kept [.shifts] s (writeShift start l s).state := by
  unfold writeShift
  dsimp only
  split
  · exact Kept.refl _ s
  · refine ⟨fun a ha => ?_⟩
    cases a <;> first | exact (ha (by decide)).elim | exact rfl | exact ⟨rfl, rfl⟩ | exact fun _ => rfl

theorem writeServiceLine_kept (e : ServiceTable) (s : State) :
    Kept (.serviceTable :: .cond .slcLevel :: serviceTurns) s (writeServiceLine e s) := by
  refine Kept.trans (t := { s with slc := { s.slc with table := e } }) ⟨fun a ha => ?_⟩
    (Kept.trans (testLevel_kept _).mono (serviceTurn_kept _).mono)
  cases a <;> first | exact (ha (by decide)).elim | exact rfl | exact ⟨rfl, rfl⟩ | exact fun _ => rfl

theorem stagePartition_kept (e : StagedPartition) (s : State) : Kept [.stagedPartition] s (stagePartition e s) := by
  refine ⟨fun a ha => ?_⟩
  cases a <;> first | exact (ha (by decide)).elim | exact rfl | exact ⟨rfl, rfl⟩ | exact fun _ => rfl

theorem stageProcess_kept (l : List ProcessTable) (s : State) : Kept [.staged] s (stageProcess l s).state := by
  unfold stageProcess
  split
  · refine ⟨fun a ha => ?_⟩
    cases a <;> first | exact (ha (by decide)).elim | exact rfl | exact ⟨rfl, rfl⟩ | exact fun _ => rfl
  · exact Kept.refl _ s

theorem writeMask_kept (e : List Bool) (s : State) : Kept [.mask] s (writeMask e s) := by
  refine ⟨fun a ha => ?_⟩
  cases a <;> first | exact (ha (by decide)).elim | exact rfl | exact ⟨rfl, rfl⟩ | exact fun _ => rfl

theorem writeLamp_kept (e : LampEntry) (s : State) : Kept [.lampTable, .lamps] s (writeLamp e s) := by
  unfold writeLamp
  dsimp only
  split <;> refine ⟨fun a ha => ?_⟩ <;> cases a <;> first
    | exact (ha (by decide)).elim
    | exact rfl
    | exact ⟨rfl, rfl⟩
    | exact fun _ => rfl

/-- A write that is refused changes nothing, and an accepted one changes what its effect does. -/
theorem writeTable_kept {α : Type} {C : List Area} {t : Table} {parse : Nat → List Byte → Option α}
    {effect : Nat → List α → State → Reply} {s : State} (h : ∀ i l, Kept C s (effect i l s).state) (f : LineFrame) :
    Kept C s (writeTable t parse effect f s).state := by
  unfold writeTable
  dsimp only
  split
  · exact Kept.refl C s
  · split
    · exact Kept.refl C s
    · split
      · exact Kept.refl C s
      · split
        · exact Kept.refl C s
        · exact h ..

/-! ## Reads -/

theorem spendFree_kept (s : State) : Kept [.freeCount] s (spendFree s) := by
  refine ⟨fun a ha => ?_⟩
  cases a <;> first | exact (ha (by decide)).elim | exact rfl | exact ⟨rfl, rfl⟩ | exact fun _ => rfl

theorem readItems_kept (sel : Nat) (f : LineFrame) (items : List (List Byte)) (s : State) :
    Kept [.freeCount] s (readItems sel f items s).state := by
  unfold readItems
  split
  · exact spendFree_kept s
  · split
    · exact spendFree_kept s
    · exact spendFree_kept s

theorem readRange_kept (sel : Nat) (f : LineFrame) (item : Nat → List Byte) (s : State) :
    Kept [.freeCount] s (readRange sel f item s).state := by
  unfold readRange
  split
  · exact spendFree_kept s
  · split
    · exact spendFree_kept s
    · split
      · exact spendFree_kept s
      · exact spendFree_kept s

theorem readHistory_kept (f : LineFrame) (s : State) : Kept [.freeCount] s (readHistory f s).state := by
  unfold readHistory
  split
  · exact spendFree_kept s
  · exact readItems_kept ..

theorem readRecords_kept (f : LineFrame) (s : State) : Kept [.freeCount] s (readRecords f s).state := by
  unfold readRecords
  split
  · exact readItems_kept ..
  · exact spendFree_kept s

theorem readStatus_kept (f : LineFrame) (s : State) : Kept [.freeCount] s (readStatus f s).state := by
  unfold readStatus
  split
  · exact spendFree_kept s
  · split
    · exact spendFree_kept s
    · exact spendFree_kept s

theorem readTable_kept (f : LineFrame) (s : State) : Kept [.freeCount] s (readTable f s).state := by
  unfold readTable
  dsimp only
  split
  · split
    · exact spendFree_kept s
    · exact spendFree_kept s
  · split
    · exact spendFree_kept s
    · split
      · exact spendFree_kept s
      · exact Kept.refl _ s

/-! ## Commands -/

theorem setLocked_kept (v : Bool) (s : State) : Kept [.locked] s (setLocked v s) := by
  refine ⟨fun a ha => ?_⟩
  cases a <;> first | exact (ha (by decide)).elim | exact rfl | exact ⟨rfl, rfl⟩ | exact fun _ => rfl

theorem clearJobFlags_kept (s : State) :
    Kept [.cond .counterSaturated, .cond .unlistedPresent, .cond .doffFault, .cond .driveCapMismatch] s
      (clearJobFlags s) :=
  Kept.trans (clearLive_kept .counterSaturated s).mono (Kept.trans (clearLive_kept .unlistedPresent _).mono
    (Kept.trans (clearLive_kept .doffFault _).mono (clearLive_kept .driveCapMismatch _).mono))

theorem resumeDoff_kept (s : State) : Kept (.parkingMarks :: .doffTimer :: (sends ++ doffMoves)) s (resumeDoff s) := by
  unfold resumeDoff
  dsimp only
  refine Kept.trans (dropMarks_kept s).mono (Kept.trans (place_kept .ad .doffStart _).mono ?_)
  refine Kept.trans ⟨fun a ha => ?_⟩ (moveDoff_kept ..).mono
  cases a <;> first | exact (ha (by decide)).elim | exact rfl | exact ⟨rfl, rfl⟩ | exact fun _ => rfl

theorem cancelDoff_kept (s : State) : Kept (.parkingMarks :: sends ++ drives ++ doffMoves) s (cancelDoff s) :=
  Kept.trans (dropMarks_kept s).mono (Kept.trans (placeDrive_kept ..).mono (Kept.trans (placePresent_kept ..).mono
    (moveDoff_kept ..).mono))

theorem modUnlocked_kept (n : Nat) (s : State) : Kept [.spindleStates, .sinceDoff] s (modSpindle n unlocked s) := by
  refine ⟨fun a ha => ?_⟩
  cases a <;> first
    | exact (ha (by decide)).elim
    | exact rfl
    | exact ⟨rfl, rfl⟩
    | exact fun _ => rfl
    | exact map_modify_same _ _ (by intro e; unfold unlocked; split <;> rfl) _ _

theorem unlock_kept (n : Nat) (s : State) : Kept [.spindleStates, .sinceDoff] s (unlock n s).state := by
  unfold unlock
  split
  · refine ⟨fun a ha => ?_⟩
    cases a <;> first
      | exact (ha (by decide)).elim
      | exact rfl
      | exact ⟨rfl, rfl⟩
      | exact fun _ => rfl
      | exact map_map_same _ _ (by intro e; unfold unlocked; split <;> rfl) _
  · split
    · exact Kept.refl _ s
    · split
      · exact modUnlocked_kept ..
      · exact Kept.refl _ s

theorem setLimit_kept (step : Nat) (s : State) : Kept (.supervisorCap :: capSends) s (setLimit step s) := by
  unfold setLimit
  refine Kept.trans (t := { s with sgv := { s.sgv with supervisorCap := step } }) ⟨fun a ha => ?_⟩
    (Kept.ite (recap_kept ..).mono (Kept.refl _ _))
  cases a <;> first | exact (ha (by decide)).elim | exact rfl | exact ⟨rfl, rfl⟩ | exact fun _ => rfl

theorem applyPartition_kept (s : State) : Kept (.reserves :: .stagedPartition :: sweeps) s (applyPartition s).state := by
  unfold applyPartition
  split
  · exact Kept.refl _ s
  · split
    · exact Kept.trans (putPartition_kept ..).mono (sweep_kept _).mono
    · exact Kept.refl _ s

theorem setClock_kept (p : List Byte) (s : State) :
    Kept (.time :: .valid :: .trim :: .cond .clockInvalid :: reports) s (setClock p s) := by
  refine Kept.trans (t := { s with scs := { s.scs with
      hours := byteAt p 1, minutes := byteAt p 2, seconds := byteAt p 3, day := fieldAt p 4 2, sub := 0,
      valid := true } }) ⟨fun a ha => ?_⟩ (Kept.trans (clearLive_kept ..).mono (discardOwed_kept _).mono)
  cases a <;> first | exact (ha (by decide)).elim | exact rfl | exact ⟨rfl, rfl⟩ | exact fun _ => rfl

theorem alignClock_kept (s : State) : Kept (.time :: .trim :: shiftCloses) s (alignClock s) := by
  unfold alignClock
  split
  · refine Kept.trans (carryClock_kept { s.scs with seconds := 0, minutes := s.scs.minutes + 1 } s
      ⟨rfl, rfl, rfl, rfl, rfl⟩).mono ?_
    exact Kept.trans (setSub_kept ..).mono (Kept.trans (discardOwed_kept _).mono (shiftTest_kept _).mono)
  · refine Kept.trans (t := { s with scs := { s.scs with seconds := 0 } }) ⟨fun a ha => ?_⟩
      (Kept.trans (setSub_kept ..).mono (discardOwed_kept _).mono)
    cases a <;> first | exact (ha (by decide)).elim | exact rfl | exact ⟨rfl, rfl⟩ | exact fun _ => rfl

theorem countPassBusy_kept (s : State) : Kept (.linkErrors :: reports) s (countPassBusy s) := by
  refine Kept.trans ⟨fun a ha => ?_⟩ (saturated_kept _ _).mono
  cases a <;> first | exact (ha (by decide)).elim | exact rfl | exact ⟨rfl, rfl⟩ | exact fun _ => rfl

theorem emptyQueues_kept (s : State) :
    Kept (.serviceRx :: .serviceTx :: .forward :: .pass :: .drive :: .cond .slcLevel :: reports) s (emptyQueues s) := by
  refine Kept.trans ⟨fun a ha => ?_⟩ (testLevel_kept _).mono
  cases a <;> first | exact (ha (by decide)).elim | exact rfl | exact ⟨rfl, rfl⟩ | exact fun _ => rfl

theorem closeRequests_kept (s : State) : Kept (.jobs :: .requests :: .wanting :: reports) s (closeRequests s) := by
  refine Kept.trans
    (t := { s with rvm := { s.rvm with requests := [], wanting := s.rvm.wanting.map fun _ => false } })
    ⟨fun a ha => ?_⟩ (freeAll_kept ..).mono
  cases a <;> first | exact (ha (by decide)).elim | exact rfl | exact ⟨rfl, rfl⟩ | exact fun _ => rfl

theorem keepLatched_kept (s : State) :
    Kept [.cond .poolLow, .cond .slcLevel, .cond .driveCapMismatch, .cond .counterSaturated, .cond .unlistedPresent,
      .cond .doffFault, .cond .clockInvalid] s (keepLatched s) := by
  refine ⟨fun a ha => ?_⟩
  cases a with
  | cond c => cases c <;> exact (ha (by decide)).elim
  | _ => first | exact rfl | exact fun _ => rfl

end Sys2Proof.Safety
end

