-- ==== Sys2Proof/WellFormed.lean ====
section
/-! DEFINITION. What makes a command one that the table's row describes: the frame it brings is of the row's kind, a
record number, a bay or a time is one the part has. -/

namespace Sys2Proof

/-- The bytes are a good frame of the frame link of this kind (R187). -/
def Instr.goodFrame (kind : Byte) (bytes : List Byte) : Bool :=
  match Machine.judgeFrameLink bytes with
  | .good f => f.kind = kind
  | _ => false

/-- The bytes fail a test of R187. -/
def Instr.badFrame (bytes : List Byte) : Bool :=
  match Machine.judgeFrameLink bytes with
  | .good _ => false
  | _ => true

/-- A well-formed command. -/
def Instr.WellFormed : Instr → Bool
  | .survey bytes => Instr.goodFrame Machine.kSurvey bytes
  | .driveReport bytes => Instr.goodFrame Machine.kDriveReport bytes
  | .graceEnd bytes => Instr.goodFrame Machine.kDriveReport bytes
  | .sensorReply bytes => Instr.goodFrame Machine.kSensorReply bytes
  | .frameLinkFrameDiscarded bytes => Instr.badFrame bytes
  | .acceptDeadlineExpiry r => r < Config.records
  | .resultDeadlineExpiry r => r < Config.records
  | .verifyDeadlineExpiry r => r < Config.records
  | .bayAcceptDeadlineExpiry b => 1 ≤ b && b ≤ Config.sections
  | .bayTimeoutExpiry b => 1 ≤ b && b ≤ Config.sections
  | .retryTimerExpiry b => 1 ≤ b && b ≤ Config.sections
  | .powerOnReset _ | .downLinkFrameEnd | .carrierDetectRise | .carrierDetectFall _ | .gapPartElapsed _
  | .serviceFrameEnd | .agentSilenceExpiry _ | .agentStatus | .jobAccept | .jobDecline | .jobResult | .parked
  | .doffProgress | .doffDone | .doffFault | .bayAccept | .bayDone | .bayRefused | .millLinkFrameReceived _
  | .millLinkFrameEnd | .subSecondStep | .secondEvent | .parkTimerExpiry | .doffTimerExpiry | .slotEnd
  | .lampBlinkPhaseEnd _ | .sectionTableWrite | .spindleTableWrite | .carriageTableWrite | .processTableWrite
  | .detectionTableWrite | .rovingMarksTableWrite | .doffTimersTableWrite | .stopActionTableWrite
  | .governorTableWrite | .speedStepTableWrite | .shiftTableWrite | .serviceLineTableWrite | .partitionTableWrite
  | .noticeMaskWrite | .lampTableWrite | .tableWrite | .tableRead | .frameLive | .spindleLive | .spindlePrev
  | .history | .roving | .records | .statusRead | .statusReadClear | .commission | .decommission | .restart
  | .doffNow | .doffClearResume | .doffClearManualDone | .doffClearCancel | .unlock | .speedLimit | .applyPartition
  | .shiftClose | .clockSet | .clockTrim | .clockAlign | .forward | .commandCodeNamingNone | .selectorNamingNone
  | .doffClearOptionNamingNone => true

end Sys2Proof
end

