-- ==== Sys2Proof/Laws/PerInstr.lean ====
section
/-! SUPPORT. A statement about every command as syntax, one lemma for each: what a well-formed one spells. -/

namespace Sys2Proof.Laws.F

open Sys2Proof.Machine

/-- The bytes a command brings are at least as many as its row's frame has (12.1, 12.3), and a record, a bay it names is one
the part has (R50, 00_scope 5.1). -/
def Fits : Instr → Prop
  | .survey bytes => 59 ≤ bytes.length
  | .driveReport bytes | .graceEnd bytes => 16 ≤ bytes.length
  | .sensorReply bytes => 7 ≤ bytes.length
  | .acceptDeadlineExpiry r | .resultDeadlineExpiry r | .verifyDeadlineExpiry r => r < 512
  | .bayAcceptDeadlineExpiry b | .bayTimeoutExpiry b | .retryTimerExpiry b => 1 ≤ b ∧ b ≤ 72
  | .powerOnReset _ | .frameLinkFrameDiscarded _ | .downLinkFrameEnd | .carrierDetectRise | .carrierDetectFall _
  | .gapPartElapsed _ | .serviceFrameEnd | .agentSilenceExpiry _ | .agentStatus | .jobAccept | .jobDecline
  | .jobResult | .parked | .doffProgress | .doffDone | .doffFault | .bayAccept | .bayDone | .bayRefused
  | .millLinkFrameReceived _ | .millLinkFrameEnd | .subSecondStep | .secondEvent | .parkTimerExpiry
  | .doffTimerExpiry | .slotEnd | .lampBlinkPhaseEnd _ | .sectionTableWrite | .spindleTableWrite
  | .carriageTableWrite | .processTableWrite | .detectionTableWrite | .rovingMarksTableWrite
  | .doffTimersTableWrite | .stopActionTableWrite | .governorTableWrite | .speedStepTableWrite | .shiftTableWrite
  | .serviceLineTableWrite | .partitionTableWrite | .noticeMaskWrite | .lampTableWrite | .tableWrite | .tableRead
  | .frameLive | .spindleLive | .spindlePrev | .history | .roving | .records | .statusRead | .statusReadClear
  | .commission | .decommission | .restart | .doffNow | .doffClearResume | .doffClearManualDone | .doffClearCancel
  | .unlock | .speedLimit | .applyPartition | .shiftClose | .clockSet | .clockTrim | .clockAlign | .forward
  | .commandCodeNamingNone | .selectorNamingNone | .doffClearOptionNamingNone => True

/-- A well-formed command fits its row. -/
def Statement (i : Instr) : Prop := i.WellFormed = true → Fits i

/-- A frame that parses is as long as its header, its payload and its check. -/
theorem parseFrame_length {bytes : List Byte} {f : LineFrame} (h : parseFrame bytes = some f) :
    f.payload.length + 7 ≤ bytes.length := by
  unfold parseFrame at h
  split at h
  · split at h
    · cases h
    · split at h
      · cases h
      · cases h
        simp only [List.length_take, List.length_cons]
        omega
  · cases h

/-- A good frame of the frame link is one that parses, and a survey or a drive report has its row's payload. -/
theorem judgeFrameLink_good {bytes : List Byte} {f : LineFrame} (h : judgeFrameLink bytes = .good f) :
    parseFrame bytes = some f ∧ (f.kind = kSurvey → f.payload.length = 52)
      ∧ (f.kind = kDriveReport → f.payload.length = 9) := by
  unfold judgeFrameLink at h
  cases hp : parseFrame bytes with
  | none => rw [hp] at h; cases h
  | some g =>
    rw [hp] at h
    dsimp only at h
    split at h
    · cases h
    split at h
    · cases h
    split at h
    · cases h
    split at h
    · cases h
    split at h
    · cases h
    rename_i hlen _
    cases h
    push Not at hlen
    exact ⟨rfl, hlen.1, hlen.2⟩

/-- A command that must bring a good frame of a kind brings one. -/
theorem goodFrame_good {kind : Byte} {bytes : List Byte} (h : Instr.goodFrame kind bytes = true) :
    ∃ f, judgeFrameLink bytes = .good f ∧ f.kind = kind := by
  unfold Instr.goodFrame at h
  split at h
  · rename_i f hf
    exact ⟨f, hf, by simpa using h⟩
  · cases h

theorem frame_length {kind : Byte} {bytes : List Byte} (h : Instr.goodFrame kind bytes = true) :
    7 ≤ bytes.length ∧ (kind = kSurvey → 59 ≤ bytes.length) ∧ (kind = kDriveReport → 16 ≤ bytes.length) := by
  obtain ⟨f, hf, rfl⟩ := goodFrame_good h
  obtain ⟨hp, hs, hd⟩ := judgeFrameLink_good hf
  have := parseFrame_length hp
  refine ⟨by omega, fun e => ?_, fun e => ?_⟩
  · have := hs e; omega
  · have := hd e; omega

theorem bay_range {b : Nat} (h : (decide (1 ≤ b) && decide (b ≤ Config.sections)) = true) : 1 ≤ b ∧ b ≤ 72 := by
  simp only [Bool.and_eq_true, decide_eq_true_eq] at h
  exact h

theorem record_range {r : Nat} (h : decide (r < Config.records) = true) : r < 512 := of_decide_eq_true h

theorem powerOnReset (carrier : Bool) : Statement (.powerOnReset carrier) := fun _ => trivial
theorem survey (bytes : List Byte) : Statement (.survey bytes) := fun h => (frame_length h).2.1 rfl
theorem driveReport (bytes : List Byte) : Statement (.driveReport bytes) := fun h => (frame_length h).2.2 rfl
theorem sensorReply (bytes : List Byte) : Statement (.sensorReply bytes) := fun h => (frame_length h).1
theorem frameLinkFrameDiscarded (bytes : List Byte) : Statement (.frameLinkFrameDiscarded bytes) := fun _ => trivial
theorem downLinkFrameEnd : Statement .downLinkFrameEnd := fun _ => trivial
theorem carrierDetectRise : Statement .carrierDetectRise := fun _ => trivial
theorem carrierDetectFall (heard : List Byte) : Statement (.carrierDetectFall heard) := fun _ => trivial
theorem gapPartElapsed (quietMs : Nat) : Statement (.gapPartElapsed quietMs) := fun _ => trivial
theorem serviceFrameEnd : Statement .serviceFrameEnd := fun _ => trivial
theorem agentSilenceExpiry (agent : Agent) : Statement (.agentSilenceExpiry agent) := fun _ => trivial
theorem agentStatus : Statement .agentStatus := fun _ => trivial
theorem jobAccept : Statement .jobAccept := fun _ => trivial
theorem jobDecline : Statement .jobDecline := fun _ => trivial
theorem jobResult : Statement .jobResult := fun _ => trivial
theorem parked : Statement .parked := fun _ => trivial
theorem doffProgress : Statement .doffProgress := fun _ => trivial
theorem doffDone : Statement .doffDone := fun _ => trivial
theorem doffFault : Statement .doffFault := fun _ => trivial
theorem bayAccept : Statement .bayAccept := fun _ => trivial
theorem bayDone : Statement .bayDone := fun _ => trivial
theorem bayRefused : Statement .bayRefused := fun _ => trivial
theorem millLinkFrameReceived (bytes : List Byte) : Statement (.millLinkFrameReceived bytes) := fun _ => trivial
theorem millLinkFrameEnd : Statement .millLinkFrameEnd := fun _ => trivial
theorem subSecondStep : Statement .subSecondStep := fun _ => trivial
theorem secondEvent : Statement .secondEvent := fun _ => trivial
theorem acceptDeadlineExpiry (record : Nat) : Statement (.acceptDeadlineExpiry record) := fun h => record_range h
theorem resultDeadlineExpiry (record : Nat) : Statement (.resultDeadlineExpiry record) := fun h => record_range h
theorem verifyDeadlineExpiry (record : Nat) : Statement (.verifyDeadlineExpiry record) := fun h => record_range h
theorem bayAcceptDeadlineExpiry (bay : Nat) : Statement (.bayAcceptDeadlineExpiry bay) := fun h => bay_range h
theorem bayTimeoutExpiry (bay : Nat) : Statement (.bayTimeoutExpiry bay) := fun h => bay_range h
theorem retryTimerExpiry (bay : Nat) : Statement (.retryTimerExpiry bay) := fun h => bay_range h
theorem parkTimerExpiry : Statement .parkTimerExpiry := fun _ => trivial
theorem doffTimerExpiry : Statement .doffTimerExpiry := fun _ => trivial
theorem slotEnd : Statement .slotEnd := fun _ => trivial
theorem graceEnd (bytes : List Byte) : Statement (.graceEnd bytes) := fun h => (frame_length h).2.2 rfl
theorem lampBlinkPhaseEnd (lamp : Lamp) : Statement (.lampBlinkPhaseEnd lamp) := fun _ => trivial
theorem sectionTableWrite : Statement .sectionTableWrite := fun _ => trivial
theorem spindleTableWrite : Statement .spindleTableWrite := fun _ => trivial
theorem carriageTableWrite : Statement .carriageTableWrite := fun _ => trivial
theorem processTableWrite : Statement .processTableWrite := fun _ => trivial
theorem detectionTableWrite : Statement .detectionTableWrite := fun _ => trivial
theorem rovingMarksTableWrite : Statement .rovingMarksTableWrite := fun _ => trivial
theorem doffTimersTableWrite : Statement .doffTimersTableWrite := fun _ => trivial
theorem stopActionTableWrite : Statement .stopActionTableWrite := fun _ => trivial
theorem governorTableWrite : Statement .governorTableWrite := fun _ => trivial
theorem speedStepTableWrite : Statement .speedStepTableWrite := fun _ => trivial
theorem shiftTableWrite : Statement .shiftTableWrite := fun _ => trivial
theorem serviceLineTableWrite : Statement .serviceLineTableWrite := fun _ => trivial
theorem partitionTableWrite : Statement .partitionTableWrite := fun _ => trivial
theorem noticeMaskWrite : Statement .noticeMaskWrite := fun _ => trivial
theorem lampTableWrite : Statement .lampTableWrite := fun _ => trivial
theorem tableWrite : Statement .tableWrite := fun _ => trivial
theorem tableRead : Statement .tableRead := fun _ => trivial
theorem frameLive : Statement .frameLive := fun _ => trivial
theorem spindleLive : Statement .spindleLive := fun _ => trivial
theorem spindlePrev : Statement .spindlePrev := fun _ => trivial
theorem history : Statement .history := fun _ => trivial
theorem roving : Statement .roving := fun _ => trivial
theorem records : Statement .records := fun _ => trivial
theorem statusRead : Statement .statusRead := fun _ => trivial
theorem statusReadClear : Statement .statusReadClear := fun _ => trivial
theorem commission : Statement .commission := fun _ => trivial
theorem decommission : Statement .decommission := fun _ => trivial
theorem restart : Statement .restart := fun _ => trivial
theorem doffNow : Statement .doffNow := fun _ => trivial
theorem doffClearResume : Statement .doffClearResume := fun _ => trivial
theorem doffClearManualDone : Statement .doffClearManualDone := fun _ => trivial
theorem doffClearCancel : Statement .doffClearCancel := fun _ => trivial
theorem unlock : Statement .unlock := fun _ => trivial
theorem speedLimit : Statement .speedLimit := fun _ => trivial
theorem applyPartition : Statement .applyPartition := fun _ => trivial
theorem shiftClose : Statement .shiftClose := fun _ => trivial
theorem clockSet : Statement .clockSet := fun _ => trivial
theorem clockTrim : Statement .clockTrim := fun _ => trivial
theorem clockAlign : Statement .clockAlign := fun _ => trivial
theorem forward : Statement .forward := fun _ => trivial
theorem commandCodeNamingNone : Statement .commandCodeNamingNone := fun _ => trivial
theorem selectorNamingNone : Statement .selectorNamingNone := fun _ => trivial
theorem doffClearOptionNamingNone : Statement .doffClearOptionNamingNone := fun _ => trivial

end Sys2Proof.Laws.F
end

