-- ==== Sys2Proof/Tests/Slice0.lean ====
section
/-! SUPPORT. Tests: the WellFormed smoke, the spec's worked figures, and one witness for each statement with hypotheses. -/

namespace Sys2Proof.Tests

set_option Elab.async false

open Sys2Proof.Machine Sys2Proof.Safety

/-- The state a command leaves. -/
def run (c : Instr) (s : State) : State :=
  match exec c s with
  | .next t => t
  | _ => s

/-! ## Ill-formed commands are refused -/

/-- A survey of section `b` with sequence `n`, window 500 ms, whose 24 entries are all `entry`, as it stands after its delimiter. -/
def surveyFrame (b n : Byte) (entry : List Byte) : LineFrame :=
  frameOf 0x70 b kSurvey n ([b, n, 0x01, 0xF4] ++ (List.replicate 24 entry).flatten)

/-- A drive report: pulses, speed, interval, run state, stop code and cap in force. -/
def reportFrame (pulses speed ms run stopCode cap : Nat) : LineFrame :=
  frameOf 0x70 0x50 kDriveReport 0 (be 2 pulses ++ be 2 speed ++ be 2 ms ++ b1 run ++ b1 stopCode ++ b1 cap)

def replyFrame (n : Nat) : LineFrame := frameOf 0xF0 0x48 kSensorReply 5 (List.replicate n 0)

theorem test_survey_wellFormed : (Instr.survey (surveyFrame 72 9 [0, 20]).bytes).WellFormed = true := by decide +kernel

theorem test_survey_of_section_73_refused :
    (Instr.survey (surveyFrame 73 9 [0, 20]).bytes).WellFormed = false := by decide +kernel

theorem test_survey_that_is_a_report_refused :
    (Instr.survey (reportFrame 1 2 3 0 0 7).bytes).WellFormed = false := by decide +kernel

theorem test_driveReport_that_is_a_survey_refused :
    (Instr.driveReport (surveyFrame 1 9 [0, 20]).bytes).WellFormed = false
      ∧ (Instr.graceEnd (surveyFrame 1 9 [0, 20]).bytes).WellFormed = false := by decide +kernel

theorem test_driveReport_cut_short_refused :
    (Instr.driveReport ((reportFrame 1 2 3 0 0 7).bytes.take 15)).WellFormed = false := by decide +kernel

theorem test_sensorReply_with_bad_check_refused :
    (Instr.sensorReply ((replyFrame 4).bytes.set 3 0xFF)).WellFormed = false := by decide +kernel

theorem test_discarded_good_frame_refused :
    (Instr.frameLinkFrameDiscarded (replyFrame 4).bytes).WellFormed = false := by decide +kernel

theorem test_record_512_refused :
    (Instr.acceptDeadlineExpiry 512).WellFormed = false ∧ (Instr.resultDeadlineExpiry 512).WellFormed = false
      ∧ (Instr.verifyDeadlineExpiry 512).WellFormed = false := by decide

theorem test_bays_0_and_73_refused :
    (Instr.bayAcceptDeadlineExpiry 0).WellFormed = false ∧ (Instr.bayTimeoutExpiry 73).WellFormed = false
      ∧ (Instr.retryTimerExpiry 0).WellFormed = false := by decide

/-! ## The spec's worked figures -/

/-- 12.1: the check of the nine bytes "123456789" is 0x29B1. -/
theorem test_check_of_123456789 :
    crc16 [0x31, 0x32, 0x33, 0x34, 0x35, 0x36, 0x37, 0x38, 0x39] = 0x29B1#16 := by decide +kernel

/-- The process table of the worked cases of 2.6. -/
def worked : ProcessTable :=
  { pulseLength := 82830, contraction := 30, draft := 4000, centitex := 984, rovingLength := 1600, copTarget := 6000,
    warnMargin := 300, fullCop := 900 }

/-- 2.6: yarn length, mass and waste. -/
theorem test_worked_yarn_and_waste :
    worked.yarnMm 1000000 = 80345 ∧ worked.massMg 80345 = 790 ∧ worked.massMg (worked.wasteMm 2500000) = 2037 := by
  decide +kernel

/-- 2.6: doff target, warning, full-cop level and roving budget. -/
theorem test_worked_target_and_budget :
    worked.inForce.target = 74677859 ∧ worked.inForce.warn = 3733892 ∧ worked.inForce.budget = 772666908
      ∧ fullCopLevel worked.inForce = 67210073 := by decide +kernel

/-- 2.6: the rescale of a staged table with draft 4,200. -/
theorem test_worked_rescale :
    ({ worked with draft := 4200 } : ProcessTable).inForce.budget = 811300253
      ∧ 200000000 * 811300253 / 772666908 = 209999999 := by decide +kernel

/-- 4.4: the sweep order of the worked example, before and after PC1 turns, and PC2's distance. -/
theorem test_worked_sweep_distances :
    [310, 700, 845, 290, 120].map (sweepDistanceIn 1 864 300 .up) = [10, 400, 545, 1138, 1308]
      ∧ [845, 700, 310, 290, 120].map (sweepDistanceIn 1 864 850 .down) = [5, 150, 540, 560, 730]
      ∧ sweepDistanceIn 841 1728 900 .up 845 = 1711 := by decide +kernel

/-- 1.8: E is 150, and readings are low to 74, slow from 75 to 140, and good from 141. -/
theorem test_worked_readings :
    expectedPulses 18000 500 = 150
      ∧ [74, 75, 140, 141].map (fun p => readingOf .reset 150
          { pulses := p, rovingAbsent := false, clampClosed := false, sensorFault := false }) = [.low, .slow, .slow, .good]
      ∧ readingOf .reset 150 { pulses := 4095, rovingAbsent := true, clampClosed := false, sensorFault := false } = .low := by
  decide +kernel

/-- 8.7: the rates of the six slot ends, and the governor after each. -/
theorem test_worked_governor_run :
    breakRate 18 1536000000 = some 42 ∧ breakRate 19 1536000000 = some 44 ∧ breakRate 17 1536000000 = some 39
      ∧ breakRate 12 1408000000 = some 30
      ∧ governorAfter Sgv.reset.table 42 .normal = .limit 5 ∧ governorAfter Sgv.reset.table 44 (.limit 5) = .limit 4
      ∧ governorAfter Sgv.reset.table 44 (.limit 3) = .limit 3 ∧ governorAfter Sgv.reset.table 39 (.limit 3) = .limit 3
      ∧ governorAfter Sgv.reset.table 30 (.limit 3) = .limit 4 ∧ governorAfter Sgv.reset.table 31 (.limit 6) = .normal := by
  decide +kernel

/-! ## A small commissioned part -/

/-- A RUNNING spindle with its creel position half full. -/
def spinner : Spindle := { Spindle.reset with inUse := true, state := .running, roving := some ⟨386333454, .full⟩ }

/-- A carriage whose zone is spindles 1 to 24. -/
def walker : CarriageUnit := { CarriageUnit.reset with zone := some ⟨1, 24⟩, enabled := true, mode := .working }

def watched : Section := { enabled := true, mode := .digest, watch := some ⟨false, 0, some 40⟩ }

/-- One section of 24 RUNNING spindles, both carriages PRESENT with PC1 alone enabled over it, BUILDING, an empty pool of
eight records, and the clock at 05:59:59 of day 812. -/
def shop : State :=
  { State.reset with
    part := .commissioned, sections := [watched], spindles := List.replicate 24 spinner
    pcu := { Pcu.reset with latest := ⟨18000, .running, 0⟩, inForce := some worked.inForce }
    pool := { Pool.reset with records := List.replicate 8 none }
    pds := { pc1 := walker, pc2 := { walker with zone := some ⟨25, 48⟩, enabled := false } }
    slc := { Slc.reset false with presence := { pc1 := some 9, pc2 := some 9, ad := none, rt := none } }
    dfs := { Dfs.reset with doff := some .building }
    sgv := { Sgv.reset with slotTimer := some 60 }
    scs := { Scs.reset with valid := true, hours := 5, minutes := 59, seconds := 59, day := 812, openShift := some none }
    mfh := { Mfh.reset with notices := [] } }

def withSpindle (st : SpindleState) (s : State) : State := setState 1 st s

def withRecords (l : List (Option JobRecord)) (s : State) : State := { s with pool := { s.pool with records := l } }

def withDoff (d : Doff) (s : State) : State := { s with dfs := { s.dfs with doff := some d } }

def withLine (l : LineState) (s : State) : State := { s with slc := { s.slc with line := l } }

def withRx (a : Agent) (m : AgentMsg) (s : State) : State :=
  { s with slc := { s.slc with rx := [{ agent := a, msg := m, seq := 0 }] } }

def withPresence (p : PerAgent (Option Nat)) (s : State) : State := { s with slc := { s.slc with presence := p } }

def withTrim (t : Trim) (sub : Nat) (s : State) : State := { s with scs := { s.scs with trim := t, sub := sub } }

/-- A PIECE record of spindle 1 in PC1's queue. -/
def piece (phase : PiecePhase) : PieceRecord :=
  { spindle := 1, origin := .runBreak, opened := none, carriage := .pc1, attempts := 0, phase := phase }

/-- Spindle 1 in a state that record 0 goes with, the other seven records free. -/
def broken (st : SpindleState) (j : JobRecord) : State :=
  withSpindle st (withRecords (some j :: List.replicate 7 none) shop)

/-- A management frame of kind `k` at the head of the mill-link receive queue of the part with frame number 1. -/
def command (k : Byte) (payload : List Byte) : LineFrame := frameOf 0x81 0xF0 k 33 payload

def waiting (f : LineFrame) (s : State) : State :=
  { s with mfh := { s.mfh with frameNumber := some 1, rx := [f] } }

theorem waiting_ready (f : LineFrame) : Ready f [] (waiting f shop) := ⟨rfl, rfl⟩

/-! ## One step of a command -/

/-- 1.8, sequence 41: 60 pulses make a RUNNING spindle SUSPECT, 130 count its first slip. -/
theorem test_survey_41 :
    (spindle 1 (run (.survey (surveyFrame 1 41 [0, 60]).bytes) shop)).state = .suspect 1 false
      ∧ (spindle 24 (run (.survey (surveyFrame 1 41 [0, 130]).bytes) shop)).live.slip = 1 := by decide +kernel

/-- 2.3: a report whose speed and interval are clamped is credited to 24 spindles. -/
theorem test_report_credits :
    let t := run (.driveReport (reportFrame 3000 31200 2600 0 0 7).bytes) shop
    t.pcu.latest.speed = 30000 ∧ t.pcu.frame.producing = 72000 ∧ t.pcu.frame.available = 48000
      ∧ t.dfs.build = 3000 := by decide +kernel

/-- 9.3: a CLOCK_TRIM of −40 at count 20 leaves 237 and a tick owed; one of +40 at 230 leaves 15 with a second event. -/
theorem test_trims :
    let owed := run .subSecondStep (withTrim (.waiting (-40)) 20 shop)
    let made := run .subSecondStep (withTrim (.waiting 40) 230 shop)
    (owed.scs.sub = 237 ∧ owed.scs.trim = .owing (-40) ∧ owed.scs.seconds = 59)
      ∧ made.scs.sub = 15 ∧ made.scs.trim = .none ∧ made.scs.hours = 6
      ∧ (made.scs.history.map fun r => (r.day, r.index)) = [(812, 1)] := by decide +kernel

/-- 9.2: a clock written as 05:59:75 reads 06:00:00 after the next second event. -/
theorem test_clock_out_of_range_corrects :
    clockFace (run .secondEvent { shop with scs := { shop.scs with seconds := 75 } }).scs = (6, 0, 0, 812) := by
  decide +kernel

/-- R80: an accepted offer takes the carriage's result timeout. -/
theorem test_accept :
    recordAt 0 (run .jobAccept (withRx .pc1 (.accept 4) (broken (.offered 0) (.piece (piece (.offered 4 2))))))
      = some (.piece (piece (.accepted 4 90))) := by decide +kernel

/-- R193, R194: a DOFF_NOW sends DOFF_STOP down the frame link at once. -/
theorem test_doffNow :
    let t := run .doffNow (waiting (command 0x42 [3]) shop)
    t.dfs.doff = some .called ∧ t.fli.down = some (.command .doffStop)
      ∧ t.mfh.slot = some { kind := 0x48, seq := 33, payload := [0, 0] } := by decide +kernel

/-- R192: a FORWARD's inner frame begins as it stands. -/
theorem test_forward :
    let inner := [1, 0xF0, 0x01, 5, 0, 0, 0]
    (run .forward (waiting (command 0x45 inner) shop)).fli.down = some (.inner inner) := by decide +kernel

/-- R201: a clear option is ignored, whatever it is, where the start item is not 0; with start item 0 it is refused. -/
theorem test_statusRead_option_ignored :
    ((run .statusRead (waiting (command 0x44 [2, 0, 1]) shop)).mfh.tx.map fun x => x.frame.payload.take 2) = some [0, 255]
      ∧ ((run .statusRead (waiting (command 0x44 [2, 0, 0]) shop)).mfh.tx.map fun x => x.frame.payload.take 2)
        = some [4, 255] := by decide +kernel

/-! ## Witnesses: states and operands that meet the hypotheses of each statement, clause by clause -/

/-- Where the pool holds one record alone, it is record 0. -/
theorem only_record {j x : JobRecord} {q k : Nat} {s : State} (h : s.pool.records = some j :: List.replicate k none)
    (hx : recordAt q s = some x) : q = 0 ∧ x = j := by
  unfold recordAt at hx
  rw [h] at hx
  rcases q with _ | q
  · exact ⟨rfl, by simpa using hx.symm⟩
  · rw [List.getElem?_cons_succ, List.getElem?_replicate] at hx
    split at hx <;> cases hx

theorem no_record {q : Nat} {s : State} (h : s.pool.records = List.replicate 8 none) : recordAt q s = none := by
  unfold recordAt
  rw [h, List.getElem?_replicate]
  split <;> rfl

theorem alone_zero {n k : Nat} {j : JobRecord} {s : State} (h : s.pool.records = some j :: List.replicate k none)
    (low : 1 ≤ n) (high : n ≤ s.spindles.length) : Alone 0 n s :=
  ⟨low, high, fun _ _ hq hne => absurd (only_record h hq).1 hne, fun _ _ hq hne => absurd (only_record h hq).1 hne⟩

theorem alone_none {n r : Nat} {s : State} (h : s.pool.records = List.replicate 8 none) (low : 1 ≤ n)
    (high : n ≤ s.spindles.length) : Alone r n s := by
  refine ⟨low, high, fun q p hq => ?_, fun q p hq => ?_⟩ <;> rw [no_record h] at hq <;> cases hq

theorem one_le_broken (st : SpindleState) (j : JobRecord) : 1 ≤ (broken st j).spindles.length := by
  simp [broken, withSpindle, withRecords, setState, modSpindle, shop]

theorem matches_zero {c : Carriage} {t : Nat} {p : PieceRecord} {s : State}
    (h : s.pool.records = some (.piece p) :: List.replicate 7 none) (hc : p.carriage = c) (ht : tagged t p = true) :
    Matches c t 0 p s :=
  ⟨by simp [recordAt, h], hc, ht, fun _ _ hq _ _ => (only_record h hq).1⟩

theorem noMatch_none {c : Carriage} {t : Nat} {s : State} (h : s.pool.records = List.replicate 8 none) :
    NoMatch c t s := by
  intro q p hq
  rw [no_record h] at hq
  cases hq

/-- A part with one sub-second step waiting. -/
def tick : State := { State.reset with pending := [.subSecondStep] }

theorem witness_StepTakesTheFrontCommand : tick.pending = .subSecondStep :: [] ∧ shop.pending = [] := ⟨rfl, rfl⟩

theorem witness_invariants :
    QueuesFit tick ∧ LatchedCovers tick ∧ SizesHold tick ∧ RovingFits tick ∧ CapsLegal tick ∧ SubSecondFits tick
      ∧ PoolFits tick ∧ ∃ t, step tick = .next t := by
  refine ⟨by constructor <;> decide +kernel, fun c => by cases c <;> decide +kernel, by constructor <;> decide +kernel,
    fun e he r hr => ?_, ⟨fun k hk => (by cases hk), by decide +kernel, by decide +kernel, by decide +kernel⟩,
    ⟨by decide +kernel, fun cv h => (by cases h), fun cv h => (by cases h)⟩,
    ⟨by decide +kernel, fun p h => (by cases h), by decide +kernel⟩, ⟨_, rfl⟩⟩
  have : e = Spindle.reset := (List.mem_replicate.mp he).2
  subst this
  cases hr

/-- A command of the UNCONFIGURED part, and one of a part whose frame number is adopted. -/
theorem witness_nextStates :
    (∃ t, exec .parkTimerExpiry State.reset = .next t)
      ∧ ∃ t, exec .commission (waiting (command 0x42 [0]) { State.reset with part := .unconfigured }) = .next t :=
  ⟨⟨_, rfl⟩, ⟨_, rfl⟩⟩

theorem witness_FramesParseAsBuilt : (List.replicate 60 (0xFF : Byte)).length ≤ 60 := by decide

theorem witness_RaisedNoticeTakesARecord :
    noticeEnabled .doffState { shop with mfh := { shop.mfh with mask := List.replicate 14 false } } = false
      ∧ (noticeEnabled .doffState shop = true ∧ canGrant .notice shop = true ∧ none ∈ shop.pool.records)
      ∧ canGrant .notice { shop with pool := { shop.pool with reserves := ⟨512, 0, 0, 0⟩ } } = false
      ∧ shop.pcu.frame.noticesLost < 65535 ∧ 9 < freeShared shop := by decide +kernel

theorem witness_ReadingsMoveSpindles :
    let patient : State := { shop with detection := { Detection.reset with confirmCount := 3, healConfirm := 3 } }
    ([.blanked, .locked, .idle, .running, .suspect 1 true, .broken 1, .offered 1, .rovingWait 1,
        .unlisted 1 false .startup].all fun st => (spindle 1 (withSpindle st patient)).state = st)
      ∧ 1 ≤ patient.spindles.length ∧ 1 + 1 < patient.detection.confirmCount ∧ 1 + 1 < patient.detection.healConfirm := by
  decide +kernel

theorem witness_HealsAndVerificationsEndBreaks :
    (∀ st j, Alone 0 1 (broken st j))
      ∧ recordAt 0 (broken (.offered 1) (.piece (piece (.offered 4 2)))) = some (.piece (piece (.offered 4 2)))
      ∧ (spindle 1 (broken (.offered 1) (.piece (piece (.offered 4 2))))).state = .offered 1
      ∧ (spindle 1 (broken (.rovingWait 1) (.hold ⟨1, .runBreak, none⟩))).state = .rovingWait 1
      ∧ Alone 0 1 (withSpindle (.unlisted 1 true .runBreak) shop)
      ∧ (spindle 1 (broken .verify (.piece { piece (.verifying 9) with attempts := 2 }))).state = .verify
      ∧ shop.detection.healConfirm ≤ 1 + 1 ∧ (carriage .pc1 shop).maxAttempts ≤ 2 + 1
      ∧ 0 + 1 < (carriage .pc1 shop).maxAttempts ∧ (shop.slc.tx.get .pc1).length < 4 :=
  ⟨fun st j => alone_zero rfl (by decide) (one_le_broken st j), by decide +kernel, by decide +kernel, by decide +kernel,
    alone_none rfl (by decide) (by decide +kernel), by decide +kernel, by decide, by decide, by decide, by decide⟩

/-- A heal from OFFERED whose record the carriage has ACCEPTED cancels the offer. -/
theorem witness_acceptedRecordHeals :
    let s := broken (.offered 1) (.piece (piece (.accepted 4 2)))
    recordAt 0 s = some (.piece (piece (.accepted 4 2))) ∧ (spindle 1 s).state = .offered 1
      ∧ outgoing .pc1 (applyReading 1 .good s).state = [.jobCancel 4] := by decide +kernel

theorem witness_ConfirmedBreakIsCounted :
    24 ≤ shop.spindles.length ∧ shop.detection.rogueLimit ≠ 0
      ∧ shop.detection.rogueLimit ≤ min 255 ((spindle 1 (modSpindle 1 (fun e => { e with sinceDoff := 5 }) shop)).sinceDoff + 1)
      ∧ ¬ shop.detection.rogueLimit ≤ min 255 ((spindle 1 shop).sinceDoff + 1) := by decide +kernel

/-- Spindle 2 of a part whose one PIECE record is of spindle 1 takes record 1, and PC1 has it offered. -/
theorem witness_confirmedBreakTakesItsPlace :
    let s := broken (.broken 0) (.piece (piece (.queued false true)))
    (∀ q p, recordAt q s = some (.piece p) → 1 ≤ p.spindle ∧ p.spindle ≠ 2)
      ∧ 2 ≤ s.spindles.length ∧ (spindle 2 s).rovingAbsent = false ∧ canGrant .piece s = true
      ∧ recordAt 0 s ≠ none ∧ recordAt 1 s = none
      ∧ (recordAt 1 (confirmBreak 2 false s)).map JobRecord.cls = some .piece
      ∧ (spindle 2 (confirmBreak 2 false s)).state = .offered 0 :=
  ⟨fun q p h => by
    have := (only_record (k := 7) rfl h).2
    cases this
    decide, by decide +kernel⟩

/-- The part with every counter that a break, a slip or a lost notice adds to at its top. -/
def toppedOut : State :=
  { shop with
    spindles := List.replicate 24 { spinner with sinceDoff := 255, live := ⟨4294967295, 255, 65535⟩ }
    pcu := { shop.pcu with frame := { shop.pcu.frame with
      openedRun := 65535, openedStartup := 65535, noticesLost := 65535, running := 4294967295,
      closures := { shop.pcu.frame.closures with hand := 65535 }, downtime := { shop.pcu.frame.downtime with d0 := 4294967295 } } } }

theorem witness_saturation :
    let refusing : State := { toppedOut with pool := { toppedOut.pool with reserves := ⟨512, 0, 0, 0⟩ } }
    toppedOut.mfh.live.counterSaturated = false ∧ 65535 ≤ (spindle 1 toppedOut).live.slip
      ∧ 255 ≤ (spindle 1 toppedOut).sinceDoff ∧ 65535 ≤ toppedOut.pcu.frame.closures.hand
      ∧ 4294967295 < toppedOut.pcu.frame.running + 1 ∧ 4294967295 < toppedOut.pcu.frame.downtime.get 0 + 1
      ∧ (noticeEnabled .doffState refusing = true ∧ canGrant .notice refusing = false)
      ∧ (raise .doffState [] refusing).mfh.live.counterSaturated = true
      ∧ (confirmBreak 1 false toppedOut).mfh.latched.counterSaturated = true
      ∧ (applyReading 1 .slow toppedOut).state.mfh.live.counterSaturated = true
      ∧ (run (.driveReport (reportFrame 1 900 500 0 0 7).bytes) toppedOut).mfh.live.counterSaturated = true
      ∧ (run (.driveReport (reportFrame 0 0 500 2 4 7).bytes) toppedOut).mfh.live.counterSaturated = true := by
  decide +kernel

/-- A survey of section 1 with sequence 41 whose first entry is `entry` and whose others are good. -/
def loneFrame (entry : List Byte) : LineFrame :=
  frameOf 0x70 1 kSurvey 41 ([1, 41, 0x01, 0xF4] ++ entry ++ (List.replicate 23 [0, 150]).flatten)

/-- The part with confirm count 1, forty free records and spindle 1 broken `n` times since its doff. -/
def quick (n : Nat) : State :=
  let s := withRecords (List.replicate 40 none) (modSpindle 1 (fun e => { e with sinceDoff := n }) shop)
  { s with detection := { s.detection with confirmCount := 1 } }

/-- Closures, the open slot and the build counter at their tops, each under the event that adds to it. -/
theorem witness_fullCounters :
    let full (s : State) : State := { s with
      pcu := { s.pcu with frame := { s.pcu.frame with closures := { s.pcu.frame.closures with pieced := 65535, lock := 65535 } } }
      sgv := { s.sgv with opened := ⟨65535, 281474976710655⟩ } }
    let verify (attempts : Nat) : State := full (broken .verify (.piece { piece (.verifying 9) with attempts }))
    let built : State := { shop with dfs := { shop.dfs with doff := some .restarting, build := 4294967295 } }
    (∀ n, Alone 0 1 (verify n)) ∧ 65535 ≤ (verify 0).pcu.frame.closures.pieced ∧ 65535 ≤ (verify 2).pcu.frame.closures.lock
      ∧ (applyReading 1 .good (verify 0)).state.mfh.latched.counterSaturated = true
      ∧ (applyReading 1 .low (verify 2)).state.mfh.latched.counterSaturated = true
      ∧ (full (quick 5)).detection.rogueLimit ≤ min 255 ((spindle 1 (full (quick 5))).sinceDoff + 1)
      ∧ 65535 ≤ (full (quick 0)).sgv.opened.breaks
      ∧ (confirmBreak 1 false (full (quick 0))).mfh.live.counterSaturated = true
      ∧ (confirmBreak 1 true (full (quick 5))).mfh.live.counterSaturated = true
      ∧ 4294967295 < built.dfs.build + 1 ∧ 281474976710655 < (full shop).sgv.opened.exposure + 500 * producingCount (full shop)
      ∧ (run (.driveReport (reportFrame 1 900 500 0 0 7).bytes) built).mfh.live.counterSaturated = true
      ∧ (run (.driveReport (reportFrame 0 900 500 0 0 7).bytes) (full shop)).mfh.live.counterSaturated = true
      ∧ (run (.driveReport (reportFrame 0 900 500 0 0 7).bytes) shop).sgv.opened = ⟨0, 500 * 24⟩ :=
  ⟨fun n => alone_zero rfl (by decide) (one_le_broken .verify (.piece { piece (.verifying 9) with attempts := n })),
    by decide +kernel⟩

theorem witness_DiscardedFramesAreCounted :
    parseFrame [0x70] = none
      ∧ (∃ f, parseFrame ((replyFrame 4).bytes.set 3 0xFF) = some f ∧ f.checks = false)
      ∧ frameLinkPair (frameOf 0x70 0x50 0x10 0 []) = false
      ∧ (surveyFrame 1 2 []).payload.length ≠ 52 ∧ byteAt (surveyFrame 1 2 [0, 1]).payload 0 = 1
      ∧ (frameOf 0x70 0x50 0x11 0 []).payload.length ≠ 9
      ∧ (∃ f, parseFrame (frameOf 0x71 1 0x10 0 []).bytes = some f ∧ f.checks = true ∧ f.dest ≠ 0x70 ∧ f.dest ≠ 0xF0) :=
  ⟨by decide, ⟨_, rfl, by decide +kernel⟩, by decide +kernel, by decide +kernel, by decide +kernel, by decide +kernel,
    ⟨_, rfl, by decide +kernel, by decide +kernel, by decide +kernel⟩⟩

theorem witness_surveys :
    judgeFrameLink (surveyFrame 1 41 [0, 150]).bytes = .good (surveyFrame 1 41 [0, 150])
      ∧ judgeFrameLink (surveyFrame 72 41 [0, 150]).bytes = .good (surveyFrame 72 41 [0, 150])
      ∧ State.reset.part = .unconfigured ∧ (sectionAt 72 shop).enabled = false
      ∧ (sectionAt 1 shop).enabled = true ∧ (sectionAt 1 shop).mode ≠ .raw ∧ 1 ≤ shop.sections.length
      ∧ (sectionAt 1 shop).watch = some ⟨false, 0, some 40⟩
      ∧ (some 40 = some (byteAt (surveyFrame 1 40 [0, 150]).payload 1))
      ∧ 1919 * max 100 (min 2000 (fieldAt (surveyFrame 1 41 [0, 150]).payload 2 2)) < 16 * 60000
      ∧ 16 ≤ shop.pcu.latest.speed * max 100 (min 2000 (fieldAt (surveyFrame 1 41 [0, 150]).payload 2 2)) / 60000
      ∧ shop.detection.breakFloor ≤ shop.detection.slipFloor := by decide +kernel

/-- Section 1 in another mode, LIVE or SILENT. -/
def moded (mode : ForwardMode) (silent : Bool) : State :=
  { shop with sections := [{ enabled := true, mode, watch := some ⟨silent, 0, none⟩ }] }

theorem classified_shop {f : LineFrame} (h : judgeFrameLink f.bytes = .good f) (kind : f.kind = 0x10)
    (head : f.payload.take 4 = [1, 41, 0x01, 0xF4]) (s : State) (part : s.part = .commissioned)
    (sec : s.sections = [watched]) (speed : s.pcu.latest.speed = 18000) : Classified f.bytes f s := by
  obtain ⟨x, hx⟩ : ∃ x, f.payload = [1, 41, 0x01, 0xF4] ++ x := ⟨f.payload.drop 4, by rw [← head, List.take_append_drop]⟩
  have hb : byteAt f.payload 0 = 1 := by rw [hx]; rfl
  have hn : byteAt f.payload 1 = 41 := by rw [hx]; rfl
  have hw : fieldAt f.payload 2 2 = 500 := by rw [hx]; rfl
  have hs : sectionAt (byteAt f.payload 0) s = watched := by rw [hb, sectionAt, sec]; rfl
  refine { good := h, survey := kind, part := part, enabled := by rw [hs]; rfl, live := ⟨⟨false, 0, some 40⟩, ?_, rfl, ?_⟩, expected := ?_ }
  · rw [hs]; rfl
  · rw [hn]; decide
  · rw [expectedOf, hw, speed]; decide

/-- Readings that make every spindle SUSPECT, that leave every one as it is, and that confirm one break, with and without
roving, of a spindle that is not rogue and of one that is. -/
theorem witness_ClassifiedSurveysMoveTheirSpindles :
    (∀ entry ∈ [[0, 60], [0, 141]], Classified (surveyFrame 1 41 entry).bytes (surveyFrame 1 41 entry) shop)
      ∧ (∀ i, i < 24 → readsLow (surveyFrame 1 41 [0, 60]) i shop = true
          ∧ readsLow (surveyFrame 1 41 [0, 141]) i shop = false ∧ readsSlow (surveyFrame 1 41 [0, 141]) i shop = false
          ∧ (spindle (spindleOf (surveyFrame 1 41 [0, 60]) i) shop).state = .running)
      ∧ (∀ low, plain shop.detection.confirmCount shop.detection.healConfirm low .running) ∧ (sectionAt 1 shop).mode = .digest
      ∧ (afterPlain true .running).code ≠ SpindleState.running.code ∧ afterPlain false .running = .running
      ∧ forwardSteady shop
      ∧ (∀ n, ∀ entry ∈ [[0, 60], [0x10, 150]], Classified (loneFrame entry).bytes (loneFrame entry) (quick n))
      ∧ (∀ entry ∈ [[0, 60], [0x10, 150]], (entryOf (loneFrame entry) 0).sensorFault = false
          ∧ readsLow (loneFrame entry) 0 (quick 0) = true
          ∧ ∀ i, i < 24 → i ≠ 0 → readsLow (loneFrame entry) i (quick 0) = false)
      ∧ (entryOf (loneFrame [0, 60]) 0).rovingAbsent = false ∧ (entryOf (loneFrame [0x10, 150]) 0).rovingAbsent = true
      ∧ confirmed (quick 0).detection.confirmCount .running ∧ plain (quick 0).detection.confirmCount 2 false .running
      ∧ (∀ n q p, recordAt q (quick n) ≠ some (.piece p))
      ∧ (quick 0).detection.rogueLimit ≠ 0 ∧ (quick 5).detection.rogueLimit ≤ min 255 ((spindle 1 (quick 5)).sinceDoff + 1)
      ∧ min 255 ((spindle 1 (quick 0)).sinceDoff + 1) < (quick 0).detection.rogueLimit ∧ 32 ≤ freeRecords (quick 0)
      ∧ inUse .piece (quick 0) < (quick 0).pool.reserves.piece ∧ inUse .hold (quick 0) < (quick 0).pool.reserves.hold := by
  refine ⟨?_, by decide +kernel, fun low _ => by decide, rfl, by decide, rfl, Or.inl (by decide), fun n => ?_, by decide +kernel,
    by decide +kernel, by decide +kernel, by unfold confirmed; decide, (fun h => by cases h), fun n q p h => ?_, by decide +kernel⟩
  · simp only [List.mem_cons, List.not_mem_nil, or_false, forall_eq_or_imp, forall_eq]
    exact ⟨classified_shop (by decide +kernel) rfl rfl shop rfl rfl rfl, classified_shop (by decide +kernel) rfl rfl shop rfl rfl rfl⟩
  · simp only [List.mem_cons, List.not_mem_nil, or_false, forall_eq_or_imp, forall_eq]
    exact ⟨classified_shop (by decide +kernel) rfl rfl (quick n) rfl rfl rfl,
      classified_shop (by decide +kernel) rfl rfl (quick n) rfl rfl rfl⟩
  · have : (quick n).pool.records = List.replicate 40 none := rfl
    unfold recordAt at h
    rw [this, List.getElem?_replicate] at h
    split at h <;> cases h

/-- Good counts 0 and 1 below a heal confirm of 2 and 3, and any count at a low reading, are plain; a heal is not. -/
theorem witness_plainOpenBreaks :
    plain 2 2 false (.broken 0) ∧ plain 2 3 false (.offered 1) ∧ plain 2 2 true (.rovingWait 9)
      ∧ plain 2 2 true (.unlisted 9 true .startup) ∧ ¬ plain 2 2 false (.broken 1)
      ∧ afterPlain true (.rovingWait 9) = .rovingWait 0
      ∧ afterPlain false (.unlisted 0 true .startup) = .unlisted 1 true .startup
      ∧ (run (.survey (surveyFrame 1 41 [0, 150]).bytes) (withSpindle (.unlisted 0 false .startup) shop)).spindles.head?.map
          Spindle.state = some (.unlisted 1 false .startup) :=
  ⟨fun _ => (by decide), fun _ => (by decide), fun h => (by cases h), fun h => (by cases h),
    fun h => absurd (h rfl) (by decide), rfl, rfl, by decide +kernel⟩

/-- A RAW section, one of mode NONE and a SILENT one. -/
theorem witness_forwardedSurveys :
    (∀ mode silent, Surveyed (surveyFrame 1 41 [0, 141]).bytes (surveyFrame 1 41 [0, 141]) (moded mode silent))
      ∧ (sectionAt 1 (moded .raw false)).mode = .raw ∧ (sectionAt 1 (moded .none false)).mode = .none
      ∧ (sectionAt 1 (moded .digest true)).watch = some ⟨true, 0, none⟩ ∧ forwardSteady (moded .raw false)
      ∧ noticeEnabled .sectionBack (moded .digest true) = true ∧ canGrant .notice (moded .digest true) = true
      ∧ none ∈ (moded .digest true).pool.records :=
  ⟨fun _ _ => ⟨by decide +kernel, rfl, rfl, rfl⟩, rfl, rfl, rfl, Or.inl (by decide), by decide, by decide +kernel,
    by decide⟩

/-- A DIGEST section whose first spindle heals, and one whose first spindle is verified, its reading low: the code that the
classifier's work leaves differs from the state it met. -/
theorem witness_digests :
    let f := surveyFrame 1 41 [0, 141]
    let low := surveyFrame 1 41 [0, 60]
    let healing := broken (.broken 1) (.piece (piece (.queued true false)))
    let failing := broken .verify (.piece (piece (.verifying 9)))
    Surveyed f.bytes f healing ∧ IsRead f healing ∧ IsRead f (moded .digest true) ∧ IsRead low failing
      ∧ heals healing.detection.healConfirm (readsLow f 0 healing) (spindle 1 (beforeEntry f 0 healing)).state
      ∧ upward (run (.survey f.bytes) healing)
        = [{ kind := 0x4B, seq := 41, payload := 1 :: (List.replicate 24 2).map (BitVec.ofNat 8) }]
      ∧ (spindle 1 (beforeEntry low 0 failing)).state = .verify ∧ readsLow low 0 failing = true
      ∧ Alone 0 1 (beforeEntry low 0 failing)
      ∧ recordAt 0 (beforeEntry low 0 failing) = some (.piece (piece (.verifying 9)))
      ∧ (upward (run (.survey low.bytes) failing)).map (fun m => m.payload.take 3) = [[1, 4, 3]] := by
  have read {f : LineFrame} {s : State} (w : Watch) (hw : (sectionAt (byteAt f.payload 0) s).watch = some w)
      (hk : w.kept ≠ some (byteAt f.payload 1)) (he : 16 ≤ expectedOf f s) : IsRead f s :=
    ⟨fun x hx => .inr (by rw [hw] at hx; cases hx; exact hk), he⟩
  exact ⟨⟨by decide +kernel, rfl, rfl, rfl⟩, read ⟨false, 0, some 40⟩ rfl (by decide) (by decide +kernel),
    read ⟨true, 0, none⟩ rfl (by decide) (by decide +kernel), read ⟨false, 0, some 40⟩ rfl (by decide) (by decide +kernel),
    ⟨by decide +kernel, by decide +kernel⟩, by decide +kernel, by decide +kernel, by decide +kernel,
    alone_zero rfl (by decide) (by decide +kernel), by decide +kernel, by decide +kernel⟩

theorem witness_DriveReportIsCredited :
    judgeFrameLink (reportFrame 3000 31200 2600 0 0 7).bytes = .good (reportFrame 3000 31200 2600 0 0 7)
      ∧ judgeFrameLink (reportFrame 0 0 500 2 3 0).bytes = .good (reportFrame 0 0 500 2 3 0)
      ∧ State.reset.part = .unconfigured ∧ shop.part = .commissioned ∧ shop.dfs.doff ≠ some .called
      ∧ byteAt (reportFrame 0 0 500 2 3 7).payload 8 = effectiveCap shop
      ∧ byteAt (reportFrame 0 0 500 2 3 0).payload 8 ≠ effectiveCap shop ∧ shop.sgv.sinceSent < 3
      ∧ 11 ≤ ({ shop.sgv with mismatch := 11, sinceSent := 3 } : Sgv).mismatch := by decide +kernel

/-- The thresholds of the worked table at their boundaries, the grace at its last millisecond, and the report that completes
the wait. -/
theorem witness_reportsMoveTheDoff :
    let target := worked.inForce.target
    let warn := target - worked.inForce.warn
    let wait : State := { shop with dfs := { shop.dfs with doff := some .called, parked1 := some true, parked2 := some true } }
    let grace (left : Nat) : State := { shop with dfs := { shop.dfs with doff := some .restarting, grace := some left } }
    reportCalls .running 500 target shop = true ∧ reportCalls .running 500 (target - 1) shop = false
      ∧ reportWarns .running 500 (target - 1) shop = true ∧ reportWarns .running 500 warn shop = true
      ∧ reportWarns .running 500 (warn - 1) shop = false
      ∧ doffAtTest .running 500 (grace 500) = some .building ∧ doffAtTest .running 500 (grace 501) = some .restarting
      ∧ reportCompletes .stopped wait = true ∧ reportCompletes .running wait = false
      ∧ (run (.driveReport (reportFrame 0 0 500 2 0 7).bytes) wait).dfs.doff = some .doffing
      ∧ outgoing .pc1 (run (.driveReport (reportFrame 10 900 500 0 0 7).bytes)
          { shop with dfs := { shop.dfs with build := target - 10 } }) = [.parkCall] := by
  decide +kernel

/-- Stops under codes 0, 1 and 3: each takes effect, changes and ends with its frames, code 3 withdraws PC1's offer, and the end
of a stop lets an offer go out. -/
theorem witness_reportsMoveTheStop :
    let stopped (k : Nat) (marked : Bool) (s : State) : State :=
      { s with dfs := { s.dfs with stop := some { code := k, parkMark := marked, doffOwned := false } } }
    let offered := broken (.offered 0) (.piece (piece (.offered 4 2)))
    let queued := stopped 4 false (broken (.broken 0) (.piece (piece (.queued false false))))
    stopFrames .stopped 1 shop = [.parkCall] ∧ stopFrames .stopped 0 (stopped 1 true shop) = [.release]
      ∧ stopFrames .stopped 3 (stopped 1 true shop) = [] ∧ stopFrames .running 0 (stopped 1 true shop) = [.release]
      ∧ armsAtStopEnd .running (stopped 1 true shop) = true ∧ armsAtStopEnd .running queued = false
      ∧ shop.slc.tx.get .pc1 = [] ∧ openOffers .pc1 offered = [.jobCancel 4] ∧ (stopAction 3 offered).offers = .cancel
      ∧ outgoing .pc1 (run (.driveReport (reportFrame 0 0 500 2 3 7).bytes) offered) = [.parkCall, .jobCancel 4]
      ∧ permitted queued = false ∧ permitted (run (.driveReport (reportFrame 10 900 500 0 0 7).bytes) queued) = true
      ∧ outgoing .pc1 (run (.driveReport (reportFrame 10 900 500 0 0 7).bytes) queued) = [.jobOffer 0 1 .runBreak 0] := by
  decide +kernel

theorem witness_MayOffer : MayOffer .pc1 (broken (.broken 0) (.piece (piece (.queued false false)))) :=
  ⟨rfl, rfl, rfl, by decide +kernel, 0, _, rfl, rfl, rfl, by decide +kernel⟩

/-- A full-sized part about to enter PRE_DOFF, its last spindle's roving nearly spent. -/
def nearlyDoff : State :=
  { State.reset with
    part := .commissioned
    spindles := List.replicate 1727 Spindle.reset ++ [{ spinner with roving := some ⟨worked.inForce.budget / 4, .full⟩ }]
    pcu := { Pcu.reset with inForce := some worked.inForce }
    dfs := { Dfs.reset with doff := some .building, build := worked.inForce.target - worked.inForce.warn } }

theorem witness_preDoffEntry :
    SizesHold nearlyDoff ∧ reportWarns .stopped 500 nearlyDoff.dfs.build nearlyDoff = true
      ∧ (spindle 1728 nearlyDoff).state ≠ .blanked
      ∧ (spindle 1728 nearlyDoff).roving = some ⟨worked.inForce.budget / 4, .full⟩
      ∧ leftAfter .stopped 0 1728 ⟨worked.inForce.budget / 4, .full⟩ nearlyDoff * 1000
        ≤ budget nearlyDoff * nearlyDoff.rvm.marks.predoffMark :=
  ⟨by constructor <;> decide +kernel, by decide +kernel⟩

theorem witness_GraceEndsOnItsReport :
    let s : State := { shop with dfs := { shop.dfs with doff := some .restarting, grace := some 2000 } }
    judgeFrameLink (reportFrame 10 900 2001 1 0 7).bytes = .good (reportFrame 10 900 2001 1 0 7)
      ∧ s.dfs.stop = none ∧ byteAt (reportFrame 10 900 2001 1 0 7).payload 6 ≤ 1
      ∧ 2000 ≤ min 2000 (fieldAt (reportFrame 10 900 2001 1 0 7).payload 4 2)
      ∧ min 4294967295 (s.dfs.build + 10) < worked.inForce.target - worked.inForce.warn := by decide +kernel

theorem witness_SensorRepliesAreForwarded :
    judgeFrameLink (replyFrame 53).bytes = .good (replyFrame 53) ∧ judgeFrameLink (replyFrame 54).bytes = .good (replyFrame 54)
      ∧ (replyFrame 53).payload.length ≤ 53 ∧ 53 < (replyFrame 54).payload.length := by decide +kernel

theorem witness_DriveCommandsGoDownFirst :
    let s : State := { shop with fli := { Fli.reset with down := some (.inner []), drive := [.doffStop], pass := [[0]] } }
    s.fli.down = some (.inner []) ∧ s.fli.drive = [.doffStop] ∧ s.fli.pass = [[0]] := ⟨rfl, rfl, rfl⟩

/-! ### The service line -/

/-- What a carrier with this frame brings. -/
def heard (f : LineFrame) : List Byte := 0x00 :: 0x7E :: f.bytes

def acceptFrame (dest : Byte) : LineFrame := frameOf dest 0x60 kJobAccept 0 [4]

theorem witness_CarrierFallJudgesWhatWasHeard :
    (0x7E ∉ [(0x55 : Byte)] ∧ [(0x55 : Byte)] ≠ [])
      ∧ (openedFrame [0x7E, 0x70] = some [0x70] ∧ judgeService [0x70] = .error)
      ∧ (openedFrame (heard (acceptFrame 0x71)) = some (acceptFrame 0x71).bytes
          ∧ judgeService (acceptFrame 0x71).bytes = .ignored)
      ∧ (openedFrame (heard (acceptFrame 0x70)) = some (acceptFrame 0x70).bytes
          ∧ judgeService (acceptFrame 0x70).bytes = .good (acceptFrame 0x70) ∧ agentAt (acceptFrame 0x70).src = some .pc1)
      ∧ shop.slc.rx.length < 20 ∧ present .pc1 shop = true ∧ present .pc1 State.reset = false
      ∧ State.reset.part = .unconfigured ∧ noticeEnabled .agentBack State.reset = true
      ∧ canGrant .notice State.reset = true ∧ none ∈ State.reset.pool.records := by decide +kernel

/-- The part hears PC1's and the transport's frames, both ABSENT until then. -/
def unheard (s : State) : State := withLine (.receiving true) (withPresence { pc1 := none, pc2 := some 9, ad := none, rt := none } s)

def fromTransport : LineFrame := frameOf 0x70 0x63 kBayAccept 0 [1]

/-- A carriage comes back to an offer and the RELEASE, or to PARK_CALL and a mark of NO, and the transport to its offer. -/
theorem witness_agentsReturn :
    let free := unheard (broken (.broken 0) (.piece (piece (.queued false false))))
    let held := unheard (withDoff .called shop)
    let waits := unheard { broken .running (.bay { bay := 1, positions := [1], urgent := true, phase := .waiting, created := none })
      with rvm := { Rvm.reset with requests := [0], mode := .working } }
    present .pc1 free = false ∧ permitted free = true ∧ (free.slc.tx.get .pc1).length < 2
      ∧ outgoing .pc1 (run (.carrierDetectFall (heard (acceptFrame 0x70))) free) = [.jobOffer 0 1 .runBreak 0, .release]
      ∧ present .pc1 held = false ∧ permitted held = false ∧ held.dfs.doff = some .called
      ∧ outgoing .pc1 (run (.carrierDetectFall (heard (acceptFrame 0x70))) held) = [.parkCall]
      ∧ (judgeService fromTransport.bytes = .good fromTransport ∧ agentAt fromTransport.src = some .rt)
      ∧ waits.rvm.mode = .working ∧ (requestList waits).any (fun x => x.2.phase.inService) = false
      ∧ ((requestList waits).find? fun x => decide (x.2.phase = .waiting) && x.2.urgent).isSome = true
      ∧ outgoing .rt (run (.carrierDetectFall (heard fromTransport)) waits) = [.bayOffer 1 true .running [1]]
      ∧ (unheard shop).rvm.mode ≠ .working := by
  decide +kernel

theorem witness_lines :
    (withLine (.quiet 3) shop).slc.line = .quiet 3 ∧ max 3 3 < shop.slc.table.gapPart
      ∧ shop.slc.table.gapPart ≤ max 3 4 ∧ (∀ a : Agent, shop.slc.tx.get a = [])
      ∧ (sourcesAfter shop.slc.pointer).takeWhile (fun x => decide (x ≠ Agent.pc1)) = []
      ∧ (withLine (.receiving true) shop).slc.line = .receiving true
      ∧ (withLine (.transmitting .pc1 ⟨.release, 0⟩ false true) shop).slc.line
        = .transmitting .pc1 ⟨.release, 0⟩ false true :=
  ⟨rfl, by decide, by decide, fun a => by cases a <;> rfl, rfl, rfl, rfl⟩

theorem witness_GapLetsAFrameBegin :
    let s : State := { shop with slc := { shop.slc with tx := { pc1 := [⟨.release, 0⟩], pc2 := [], ad := [], rt := [] } } }
    s.slc.tx.get .pc1 = ⟨.release, 0⟩ :: [] := rfl

theorem witness_SilentAgentIsAbsent :
    let gone := withPresence { pc1 := some 0, pc2 := none, ad := some 0, rt := some 0 } shop
    let q : BayRequest := { bay := 1, positions := [1], urgent := false, phase := .offered 0, created := none }
    let offered := withRecords [some (.bay q), none] { gone with rvm := { gone.rvm with requests := [0] } }
    shop.slc.presence.get .pc1 ≠ some 0 ∧ gone.slc.presence.get .pc1 = some 0 ∧ gone.slc.presence.get .ad = some 0
      ∧ noticeEnabled .agentAbsent gone = true ∧ canGrant .notice gone = true ∧ none ∈ gone.pool.records
      ∧ gone.dfs.doff ≠ some .called ∧ offered.slc.presence.get .rt = some 0
      ∧ ((requestList offered).find? fun x => x.2.phase.inService) = some (0, q) := by decide +kernel

/-- PC1 goes ABSENT with a record in its window: the record goes to PC2 where that covers spindle 1, and stays otherwise; in
DOFF_CALLED the absence leaves the wait standing or, PC2 having parked, enters DOFFING. -/
theorem witness_carriageLeaves :
    let gone (s : State) : State := withPresence { pc1 := some 0, pc2 := some 9, ad := none, rt := none } s
    let offered := gone (broken (.offered 0) (.piece (piece (.offered 4 2))))
    let both : State := { offered with pds := { offered.pds with pc2 := { walker with mode := .parked } } }
    let wait (pc2 : Bool) : State := { offered with dfs := { shop.dfs with
      doff := some .called, stopSeen := some true, parked1 := some false, parked2 := some pc2 } }
    let absent := run (.agentSilenceExpiry .pc1)
    afterAbsence .pc1 (piece (.offered 4 2)) offered = piece (.queued false false)
      ∧ recordAt 0 (absent offered) = some (.piece (piece (.queued false false)))
      ∧ recordAt 0 (absent both) = some (.piece { piece (.queued false false) with carriage := .pc2 })
      ∧ parkMark .pc2 (wait false) ≠ some true ∧ (absent (wait false)).dfs.doff = some .called
      ∧ parkMark .pc2 (wait true) = some true ∧ (absent (wait true)).dfs.doff = some .doffing
      ∧ outgoing .pc1 (absent (wait true)) = [] ∧ outgoing .ad (absent (wait true)) = [.doffStart] := by
  decide +kernel

/-! ### Agent frames -/

theorem witness_AgentStatusIsKept :
    (withRx .pc1 (.status 1729 1 3) shop).slc.rx = { agent := .pc1, msg := .status 1729 1 3, seq := 0 } :: []
      ∧ (carriage .pc1 (run .agentStatus (withRx .pc1 (.status 1729 1 3) shop))).direction ≠ (carriage .pc1 shop).direction :=
  ⟨rfl, by decide +kernel⟩

/-- Spindles 5, 9 and 3 wait for PC1, which stands at spindle 4 going up with next tag 255. -/
def lined (more : List (Option JobRecord)) : State :=
  let at' (n : Nat) : Option JobRecord := some (.piece { piece (.queued false false) with spindle := n })
  let s := withRx .pc1 (.status 4 0 0) (withRecords (at' 9 :: at' 3 :: at' 5 :: more) shop)
  { s with pds := { s.pds with pc1 := { walker with nextTag := 255 } } }

/-- The nearest record ahead is offered first, then the next; with one offer open the nearest alone. -/
theorem witness_offers :
    let one := lined [some (.piece { piece (.accepted 7 9) with spindle := 20 })]
    (lined []).part = .commissioned ∧ modeFrom 0 (carriage .pc1 (lined [])).mode = .working
      ∧ (carriage .pc1 (lined [])).enabled = true ∧ present .pc1 (lined []) = true ∧ permitted (lined []) = true
      ∧ openOffers .pc1 (lined []) = [] ∧ (openOffers .pc1 one).length = 1 ∧ (carriage .pc1 (lined [])).acceptTimeout = 3
      ∧ [9, 3, 5].map (sweepTo (carriage .pc1 (run .agentStatus (lined [])))) = [5, 41, 1]
      ∧ recordAt 2 (run .agentStatus (lined [])) = some (.piece { piece (.offered 255 3) with spindle := 5 })
      ∧ recordAt 0 (run .agentStatus (lined [])) = some (.piece { piece (.offered 0 3) with spindle := 9 })
      ∧ outgoing .pc1 (run .agentStatus (lined [])) = [.jobOffer 255 5 .runBreak 0, .jobOffer 0 9 .runBreak 0]
      ∧ (carriage .pc1 (run .agentStatus (lined []))).nextTag = 1
      ∧ outgoing .pc1 (run .agentStatus one) = [.jobOffer 255 5 .runBreak 0] := by decide +kernel

theorem witness_NextInQueue :
    let s := lined []
    let u := carriage .pc1 (run .agentStatus s)
    NextInQueue .pc1 false u (fun _ => True) 2 { piece (.queued false false) with spindle := 5 } s
      ∧ NextInQueue .pc1 false u (fun x => x ≠ 2) 0 { piece (.queued false false) with spindle := 9 } s := by
  have at3 : ∀ q p', recordAt q (lined []) = some (.piece p') →
      q = 0 ∧ p'.spindle = 9 ∨ q = 1 ∧ p'.spindle = 3 ∨ q = 2 ∧ p'.spindle = 5 := by
    intro q p' h
    match q, h with
    | 0, h => cases h; exact .inl ⟨rfl, rfl⟩
    | 1, h => cases h; exact .inr (.inl ⟨rfl, rfl⟩)
    | 2, h => cases h; exact .inr (.inr ⟨rfl, rfl⟩)
    | _ + 3, h => cases h
  refine ⟨⟨⟨rfl, rfl, .inl rfl, by decide +kernel⟩, trivial, fun q p' h _ hq => ?_⟩,
    ⟨⟨rfl, rfl, .inl rfl, by decide +kernel⟩, by decide, fun q p' h ha hq => ?_⟩⟩
  · obtain ⟨-, e⟩ | ⟨-, e⟩ | ⟨e, -⟩ := at3 q p' h.record
    · rw [e]; decide +kernel
    · rw [e]; decide +kernel
    · exact absurd e hq
  · obtain ⟨e, -⟩ | ⟨-, e⟩ | ⟨e, -⟩ := at3 q p' h.record
    · exact absurd e hq
    · rw [e]; decide +kernel
    · exact absurd e ha

/-- A stray answer that begins on the free line has the owner tested: nothing to offer, and a record that waits. A report that
ends the grace and calls the doff sends PARK_CALL and no offer. -/
theorem witness_told :
    let free (s : State) : State := withLine (.quiet 20) s
    let queued := free (broken (.broken 0) (.piece (piece (.queued false false))))
    let stray := withRx .pc1 (.result 77 0) queued
    let target := worked.inForce.target
    Quiet .pc1 (withRx .pc1 (.accept 4) (free shop)) ∧ Quiet .rt (withRx .rt (.bayAccept 72) (free shop)) ∧ Quiet .rt shop
      ∧ outgoing .pc1 (run .jobResult stray) = [.resultAck 77 false, .jobOffer 0 1 .runBreak 0]
      ∧ outgoing .pc1 (run (.driveReport (reportFrame 10 900 500 0 0 7).bytes)
          { queued with dfs := { queued.dfs with build := target - 10, grace := some 500 } }) = [.parkCall] :=
  ⟨.inr ⟨fun b => (by cases b <;> rfl), by decide +kernel⟩, .inr ⟨fun b => (by cases b <;> rfl), .inl (by decide +kernel)⟩,
    .inl (by decide +kernel), by decide +kernel, by decide +kernel⟩

theorem witness_JobAcceptActsByItsRecord :
    Matches .pc1 4 0 (piece (.offered 4 2)) (withRx .pc1 (.accept 4) (broken (.offered 0) (.piece (piece (.offered 4 2)))))
      ∧ Matches .pc1 4 0 (piece (.accepted 4 2))
        (withRx .pc1 (.accept 4) (broken (.offered 0) (.piece (piece (.accepted 4 2)))))
      ∧ NoMatch .pc1 4 (withRx .pc1 (.accept 4) shop) :=
  ⟨matches_zero rfl rfl rfl, matches_zero rfl rfl rfl, noMatch_none rfl⟩

theorem witness_JobDeclineRequeues :
    let s := withRx .pc1 (.decline 4) (broken (.offered 0) (.piece (piece (.offered 4 2))))
    let off : State := { s with pds := { s.pds with pc1 := { walker with enabled := false } } }
    Matches .pc1 4 0 (piece (.offered 4 2)) s ∧ Alone 0 1 s ∧ (carriage .pc1 s).candidate 1 = true
      ∧ Matches .pc1 4 0 (piece (.offered 4 2)) off ∧ Alone 0 1 off
      ∧ (carriage .pc1 off).candidate 1 = false ∧ (carriage .pc2 off).candidate 1 = false :=
  ⟨matches_zero rfl rfl rfl, alone_zero rfl (by decide) (by decide +kernel), by decide +kernel, matches_zero rfl rfl rfl,
    alone_zero rfl (by decide) (by decide +kernel), by decide +kernel, by decide +kernel⟩

theorem witness_JobResultSettlesTheRecord :
    let last : PieceRecord := { piece (.accepted 4 2) with attempts := 2 }
    let s := fun p code => withRx .pc1 (.result 4 code) (broken (.offered 0) (.piece p))
    let full : State := { s (piece (.accepted 4 2)) 2 with pool := { shop.pool with
      records := some (.piece (piece (.accepted 4 2))) :: List.replicate 7 none, reserves := ⟨512, 0, 0, 0⟩ } }
    (∀ p code, p.spindle = 1 → p.carriage = .pc1 → tagged 4 p = true →
        Matches .pc1 4 0 p (s p code) ∧ Alone 0 p.spindle (s p code))
      ∧ 0 + 1 < (carriage .pc1 shop).maxAttempts ∧ (carriage .pc1 shop).maxAttempts ≤ last.attempts + 1
      ∧ (carriage .pc1 shop).candidate 1 = true
      ∧ inUse .hold (s (piece (.accepted 4 2)) 2) < (s (piece (.accepted 4 2)) 2).pool.reserves.hold
      ∧ Matches .pc1 4 0 (piece (.accepted 4 2)) full ∧ Alone 0 1 full
      ∧ full.pool.reserves.hold ≤ inUse .hold full ∧ freeShared (setRecord 0 none full) = 0 :=
  ⟨fun p _ h1 h2 h3 => ⟨matches_zero rfl h2 h3, alone_zero rfl (by rw [h1]) (by rw [h1]; exact one_le_broken (.offered 0) (.piece p))⟩, by decide,
    by decide, by decide +kernel, by decide +kernel, matches_zero rfl rfl rfl,
    alone_zero rfl (by decide) (by decide +kernel), by decide +kernel, by decide +kernel⟩

/-- The doff called, the stop seen, and PC2's mark as given. -/
def called (pc2 : Option Bool) : State :=
  withRx .pc1 .parked { shop with dfs := { shop.dfs with doff := some .called, stopSeen := some true, parked1 := some false,
                                                         parked2 := pc2, parkTimer := some 5 } }

theorem witness_ParkedCarriageCompletesTheWait :
    (withRx .pc1 .parked shop).dfs.doff ≠ some .called
      ∧ (called (some false)).dfs.doff = some .called ∧ present .pc1 (called (some false)) = true
      ∧ (present .pc2 (called (some false)) = true ∧ parkMark .pc2 (called (some false)) ≠ some true)
      ∧ (called (some true)).dfs.stopSeen = some true ∧ parkMark .pc2 (called (some true)) = some true := by
  decide +kernel

theorem witness_AutodofferFramesMoveTheDoff :
    (withRx .ad .doffDone (withDoff .doffing shop)).dfs.doff = some .doffing
      ∧ (withRx .ad (.progress 73) shop).dfs.doff ≠ some .doffing
      ∧ (withRx .ad (.progress 73) shop).slc.rx = { agent := .ad, msg := .progress 73, seq := 0 } :: []
      ∧ (withRx .ad .doffFault (withDoff (.fault .park) shop)).dfs.doff = some (.fault .park)
      ∧ present .pc1 shop = true ∧ (shop.slc.tx.get .pc1).length < 4 := by decide +kernel

/-- Bay 1's request in record 0, position 1 listed. -/
def request (phase : BayPhase) : BayRequest := { bay := 1, positions := [1], urgent := false, phase, created := none }

def asked (phase : BayPhase) (m : AgentMsg) (st : SpindleState) : State :=
  let s := withRx .rt m (broken st (.bay (request phase)))
  { s with rvm := { s.rvm with requests := [0] } }

theorem witness_bayFrames :
    requestOf 1 (asked (.offered 2) (.bayAccept 1) .running) = some (0, request (.offered 2))
      ∧ requestOf 1 (asked (.accepted 2) (.bayDone 1 [1]) .running) = some (0, request (.accepted 2))
      ∧ requestOf 1 (asked .waiting (.bayRefused 1) .running) = some (0, request .waiting)
      ∧ requestOf 72 (withRx .rt (.bayAccept 72) shop) = none ∧ (request (.accepted 2)).phase.inService = true
      ∧ (request .waiting).phase.inService = false ∧ shop.rvm.mode ≠ .working := by decide +kernel

theorem witness_BayDoneRefillsItsPositions :
    let run' := asked (.accepted 2) (.bayDone 1 [1]) .running
    let wait := asked (.accepted 2) (.bayDone 1 [1]) (.rovingWait 0)
    let held : State := { wait with dfs := { wait.dfs with grace := some 1 } }
    (∀ e ∈ run'.spindles, e.state.isUnlisted = false) ∧ (∀ n ∈ (request (.accepted 2)).positions,
        (spindle n run').state.isRovingWait = false)
      ∧ requestOf 1 held = some (0, request (.accepted 2)) ∧ (∀ e ∈ held.spindles, e.state.isUnlisted = false)
      ∧ (spindle 1 held).state.isRovingWait = true ∧ inUse .piece held < held.pool.reserves.piece ∧ 3 ≤ freeRecords held
      ∧ permitted held = false ∧ (1 : Nat) = 24 * (1 - 1) + 1 := by decide +kernel

/-- A ROVING_WAIT position in a pool with room, an UNLISTED one in a pool with room and in a full one, and bays that are
none. -/
theorem witness_BayDoneAsksForRecords :
    let held := fun st (reserves : Partition) =>
      let s := asked (.accepted 2) (.bayDone 1 [1]) st
      { s with dfs := { s.dfs with grace := some 1 }
               pool := { s.pool with records := s.pool.records ++ List.replicate 8 none, reserves } }
    let wait := held (.rovingWait 0) Pool.reset.reserves
    let note := held (.unlisted 1 true .runBreak) Pool.reset.reserves
    let full := held (.unlisted 1 true .runBreak) ⟨0, 512, 0, 0⟩
    (replacedOf (request (.accepted 2)) [1] = [1] ∧ requestOf 1 wait = some (0, request (.accepted 2))
        ∧ requestOf 1 note = some (0, request (.accepted 2)) ∧ requestOf 1 full = some (0, request (.accepted 2)))
      ∧ (permitted wait = false ∧ permitted note = false)
      ∧ ((∀ e ∈ wait.spindles, e.state.isUnlisted = false) ∧ (spindle 1 wait).state.isRovingWait = true
        ∧ inUse .piece wait + 1 ≤ wait.pool.reserves.piece ∧ 5 * 1 + 4 ≤ freeRecords wait)
      ∧ (noticeEnabled .bayClosed wait = true ∧ inUse .notice wait + 4 ≤ wait.pool.reserves.notice)
      ∧ ((spindle 1 note).state = .unlisted 1 true .runBreak ∧ inUse .piece note < note.pool.reserves.piece
        ∧ 4 ≤ freeRecords note ∧ ∀ m, m < 24 → m ≠ 0 → (spindle (m + 1) note).state.isUnlisted = false)
      ∧ ((spindle 1 full).state = .unlisted 1 true .runBreak ∧ full.pool.reserves.piece ≤ inUse .piece full
        ∧ freeShared (setRecord 0 none full) = 0)
      ∧ (withRx .rt (.bayDone 73 [1]) shop).slc.rx = [{ agent := .rt, msg := .bayDone 73 [1], seq := 0 }] := by
  decide +kernel

theorem witness_UnconfiguredPartAnswersAgents :
    NoPieces (withRx .pc1 (.result 4 0) (withRecords (List.replicate 8 none) State.reset))
      ∧ State.reset.part = .unconfigured ∧ State.reset.rvm.requests = [] ∧ State.reset.dfs.doff = none :=
  ⟨fun q p h => (by rw [no_record rfl] at h; cases h), rfl, rfl, rfl⟩

/-! ### The mill link -/

theorem witness_MillFramesAreReceived :
    judgeMill [0x81] = .error ∧ judgeMill (command 0x42 [3]).bytes = .good (command 0x42 [3])
      ∧ (waiting (command 0x42 [3]) shop).mfh.frameNumber = some 1 ∧ (command 0x42 [3]).dest = millAddr 1
      ∧ judgeMill (frameOf 0x82 0xF0 0x42 0 [3]).bytes = .good (frameOf 0x82 0xF0 0x42 0 [3])
      ∧ (0x82 : Byte) ≠ millAddr 1 ∧ judgeMill (frameOf 0x80 0xF0 0x42 0 [3]).bytes = .good (frameOf 0x80 0xF0 0x42 0 [3])
      ∧ (0x80 : Byte).toNat < 0x81 ∧ 0x81 ≤ (0x81 : Byte).toNat ∧ shop.mfh.frameNumber = none
      ∧ shop.mfh.rx.length < 8 := by decide +kernel

/-- A frame of this source in transmission up the mill link. -/
def sending (source : MillSource) (slot : Option MillFrame) (notices : List Nat) (forward : List MillFrame) : State :=
  let s := withRecords (List.replicate 2 (some (.notice Notice.atReset)) ++ List.replicate 6 none) shop
  { s with mfh := { s.mfh with frameNumber := some 1, tx := some ⟨source, command 0 []⟩, slot := slot, notices := notices }
           fli := { s.fli with forward := forward } }

theorem witness_MillFrameEndBeginsTheNext :
    (sending .response (some ⟨0x48, 0, []⟩) [] []).mfh.slot = some ⟨0x48, 0, []⟩
      ∧ recordAt 0 (sending .response none [0] []) = some (.notice Notice.atReset)
      ∧ (sending .response none [0] []).fli.forward = [] ∧ (sending .forward none [] [⟨1, 2, []⟩]).mfh.notices = []
      ∧ (∀ r, MillSource.response ≠ .notice r)
      ∧ (∀ e ∈ (sending (.notice 1) none [0] []).spindles, e.state.isUnlisted = false)
      ∧ 8 < freeShared (sending (.notice 1) none [0] [])
      ∧ (run .millLinkFrameEnd (sending (.notice 1) none [0] [])).mfh.notices = []
      ∧ (run .millLinkFrameEnd (sending (.notice 1) none [] [⟨1, 2, []⟩])).fli.forward = [] :=
  ⟨rfl, rfl, rfl, rfl, fun r h => (by cases h), by decide +kernel⟩

/-! ### The clock and the timers -/

theorem witness_SubSecondStepCountsAndTrims :
    (withTrim .none 254 shop).scs.sub < 255 ∧ 255 ≤ (withTrim .none 255 shop).scs.sub
      ∧ (withTrim (.owing (-2)) 255 shop).scs.trim = .owing (-2)
      ∧ (noticeEnabled .trimDone shop = true ∧ canGrant .notice shop = true ∧ none ∈ shop.pool.records)
      ∧ (0 ≤ ((63 : Nat) : Int) + 1 + -64 ∧ ((192 : Nat) : Int) + 1 + 63 ≥ 256 ∧ ((62 : Nat) : Int) + 1 + -64 < 0)
      ∧ (withTrim (.waiting (-64)) 63 shop).scs.trim = .waiting (-64) := by decide +kernel

theorem witness_SecondEventAdvancesEveryTimer :
    shop.part = .commissioned ∧ shop.scs.valid = true ∧ shop.scs.day < 65535 ∧ shop.scs.trim = .none
      ∧ shop.scs.shifts[0]? = some (some (daySeconds (timeAfter shop.scs)))
      ∧ (∀ r ∈ shop.scs.history, r.day ≠ 812 ∨ r.index ≠ 0 + 1)
      ∧ some (daySeconds (timeAfter { shop.scs with seconds := 57 })) ∉ shop.scs.shifts
      ∧ (∃ r ∈ [shiftRecord 1 .clock shop], r.day = 812 ∧ r.index = 0 + 1)
      ∧ (withTrim (.owing (-2)) 3 shop).scs.trim = .owing (-2) ∧ (0 : Int) ≤ (3 : Nat) + 1 + -4
      ∧ (((62 : Nat) : Int) + 1 + -64 < 0 ∧ 256 ≤ ((192 : Nat) : Int) + 1 + 63) ∧ (withTrim (.waiting 63) 255 shop).scs.sub = 255
      ∧ (withTrim (.waiting (-64)) 62 shop).scs.trim = .waiting (-64)
      ∧ noticeEnabled .trimDone shop = true ∧ canGrant .notice shop = true ∧ none ∈ shop.pool.records := by
  refine ⟨rfl, rfl, by decide, rfl, by decide +kernel, fun r h => absurd h (List.not_mem_nil), by decide +kernel,
    ⟨_, List.mem_singleton.mpr rfl, rfl, rfl⟩, rfl, by decide, by decide, rfl, rfl, by decide, by decide +kernel, by decide⟩

theorem witness_DeadlinesRequeueOrLock :
    let s := fun p => broken (.offered 0) (.piece p)
    let held := fun p => { s p with dfs := { (s p).dfs with grace := some 1 } }
    (∀ p, p.spindle = 1 → recordAt 0 (held p) = some (.piece p) ∧ Alone 0 p.spindle (held p))
      ∧ (carriage .pc1 shop).candidate 1 = true ∧ permitted (held (piece (.offered 4 0))) = false
      ∧ 0 + 1 < (carriage .pc1 shop).maxAttempts ∧ (carriage .pc1 shop).maxAttempts ≤ 2 + 1
      ∧ (piece (.offered 4 0)).phase = .offered 4 0 ∧ (piece (.accepted 4 0)).phase = .accepted 4 0
      ∧ (piece (.verifying 0)).phase = .verifying 0 ∧ (piece (.offered 4 1)).phase ≠ .offered 4 0 :=
  ⟨fun p h => ⟨rfl, alone_zero rfl (by rw [h]) (by rw [h]; exact one_le_broken (.offered 0) (.piece p))⟩, by decide +kernel, by decide +kernel,
    by decide, by decide, rfl, rfl, rfl, by decide⟩

theorem witness_BayTimersReturnToWaiting :
    [.offered 0, .accepted 0, .refusedWait 0, .offered 1].all fun phase =>
      requestOf 1 (asked phase .parked .running) = some (0, request phase) := by decide +kernel

/-- A WORKING transport is offered the request again, alone and before a younger one, and not behind an URGENT one. -/
theorem witness_requestOfferedAgain :
    let working (s : State) : State := { withPresence { pc1 := none, pc2 := none, ad := none, rt := some 9 } s with
      rvm := { s.rvm with mode := .working, requests := [0, 1] } }
    let other (urgent : Bool) : JobRecord := .bay { bay := 2, positions := [25], urgent, phase := .waiting, created := none }
    let two (urgent : Bool) : State :=
      working (setRecord 1 (some (other urgent)) (asked (.offered 0) .parked .running))
    requestList (two true)
        = [(0, request (.offered 0)), (1, { bay := 2, positions := [25], urgent := true, phase := .waiting, created := none })]
      ∧ (two true).part = .commissioned ∧ present .rt (two true) = true ∧ ((two true).slc.tx.get .rt).length < 3
      ∧ recordAt 0 (run (.bayAcceptDeadlineExpiry 1) (two false)) = some (.bay (request (.offered 5)))
      ∧ recordAt 0 (run (.bayAcceptDeadlineExpiry 1) (two true)) = some (.bay (request .waiting))
      ∧ outgoing .rt (run (.bayAcceptDeadlineExpiry 1) (two false)) = [.bayWithdraw 1, .bayOffer 1 false .running [1]] := by
  decide +kernel

theorem witness_DoffTimersFault :
    let parked := { called none with dfs := { (called none).dfs with parkTimer := some 0 } }
    let late := { shop with dfs := { shop.dfs with doff := some .doffing, doffTimer := some 0 } }
    (parked.dfs.doff = some .called ∧ parked.dfs.parkTimer = some 0)
      ∧ (late.dfs.doff = some .doffing ∧ late.dfs.doffTimer = some 0)
      ∧ shop.dfs.doff ≠ some .called ∧ shop.dfs.doff ≠ some .doffing := by decide +kernel

/-- The part at a slot end whose window will hold this many breaks over 100,000,000 spindle-ms, in governor state `g`. -/
def slotOver (breaks : Nat) (g : Governor) : State :=
  { shop with sgv := { shop.sgv with slotTimer := some 0, opened := ⟨breaks, 100000000⟩, governor := g } }

theorem witness_SlotEndMovesTheGovernor :
    (slotOver 2 .normal).part = .commissioned ∧ (slotOver 2 .normal).sgv.slotTimer = some 0
      ∧ (slotOver 2 .normal).dfs.doff = some .building
      ∧ (slotOver 2 .normal).sgv.table.minExposure * 1000 ≤ (([⟨2, 100000000⟩] : List Slot).map Slot.exposure).sum
      ∧ 40 ≤ min 65535 (2 * 3600000000 / 100000000) ∧ min 65535 (0 * 3600000000 / 100000000) < 40 - 8
      ∧ (run .slotEnd (slotOver 2 .normal)).sgv.governor.cap ≠ (slotOver 2 .normal).sgv.governor.cap
      ∧ effectiveCap (run .slotEnd (slotOver 2 .normal)) ≠ effectiveCap (slotOver 2 .normal)
      ∧ (run .slotEnd (slotOver 0 (.limit 6))).sgv.governor = .normal
      ∧ shop.sgv.slotTimer ≠ some 0 ∧ State.reset.part ≠ .commissioned
      ∧ noticeEnabled .governorStep shop = true ∧ canGrant .notice shop = true ∧ none ∈ shop.pool.records := by
  decide +kernel

theorem witness_BlinkPhasesToggle :
    let s := withDoff .preDoff shop
    refreshLamps (refreshLamps s) = refreshLamps s ∧ ((refreshLamps s).mfh.lamps.get .doff).pattern = .blink2
      ∧ ((refreshLamps s).mfh.lamps.get .roving).pattern = .off
      ∧ ((refreshLamps (withDoff (.fault .park) shop)).mfh.lamps.get .doff).pattern = .blink1 := by decide +kernel

/-- The DOFF lamp after a command: OFF in BUILDING, and in PRE_DOFF the pattern of its third item. -/
theorem witness_LampsShow :
    ((run .carrierDetectRise shop).mfh.lamps.get .doff).pattern = .off
      ∧ ((run .carrierDetectRise (withDoff .preDoff shop)).mfh.lamps.get .doff).pattern = .blink2
      ∧ ((run .carrierDetectRise (withDoff (.fault .park) shop)).mfh.lamps.get .doff).pattern = .blink1 := by
  decide +kernel

/-! ### Management frames -/

/-- full_cop 0 is taken as 900. -/
theorem witness_fullCopZero :
    legalProcess worked ∧ worked.fullCop = 900
      ∧ (run .processTableWrite (waiting (command 0x40 (4 :: 0 :: 0 :: processBytes { worked with fullCop := 0 })) shop)).pcu.staged
        = some worked := ⟨by unfold legalProcess; decide +kernel, rfl, by decide +kernel⟩

theorem witness_SingleEntryTablesAreWritten :
    Ready (command 0x40 (5 :: 0 :: 0 :: detectionBytes Detection.reset)) []
        (waiting (command 0x40 (5 :: 0 :: 0 :: detectionBytes Detection.reset)) shop)
      ∧ (command 0x40 []).kind = 0x40 ∧ legalDetection { Detection.reset with breakFloor := 900, silenceLimit := 64 }
      ∧ legalMarks { shop.rvm.marks with lowMark := 500, batchCount := 24 }
      ∧ legalDoffTimers { shop.dfs.timers with grace := 120 } ∧ legalGovernor { shop.sgv.table with hysteresis := 39 }
      ∧ legalServiceLine { shop.slc.table with gapPart := 20 } ∧ legalPartition ⟨⟨508, 1, 1, 2⟩, true⟩
      ∧ (List.replicate 14 true).length = 14 ∧ legalProcess worked
      ∧ (∀ ms, (withLine (.receiving true) shop).slc.line ≠ .quiet ms)
      ∧ (spindle 1 shop).roving = some ⟨386333454, .full⟩ := by
  refine ⟨⟨rfl, rfl⟩, rfl, ?_, ?_, ?_, ?_, ?_, ?_, rfl, ?_, fun ms h => (by cases h), by decide +kernel⟩
  · unfold legalDetection; decide
  · unfold legalMarks; decide
  · unfold legalDoffTimers; decide
  · unfold legalGovernor; decide
  · unfold legalServiceLine; decide
  · unfold legalPartition; decide
  · unfold legalProcess; decide +kernel

/-- A part of full size with a TABLE_WRITE waiting. -/
def written (payload : List Byte) (part : PartState) : State :=
  waiting (command 0x40 payload) { State.reset with part := part }

theorem witness_RunsOfEntriesAreWritten :
    SizesHold (written [1, 0, 72, 1, 0] .unconfigured)
      ∧ Ready (command 0x40 [1, 0, 72, 1, 0]) [] (written [1, 0, 72, 1, 0] .unconfigured)
      ∧ 72 + ([⟨true, .raw⟩] : List SectionEntry).length ≤ 73
      ∧ (command 0x40 [1, 0, 72, 1, 0]).payload
        = 1 :: (be 2 72 ++ ([⟨true, .raw⟩] : List SectionEntry).flatMap fun e => b1 (yesNo e.enabled) ++ b1 e.mode.code)
      ∧ legalCarriage ⟨⟨1, 1728⟩, 10, 600, 7, true⟩ ∧ legalStopAction ⟨3, .cancel, true, true⟩
      ∧ Alone 9 1728 (withRecords (List.replicate 8 none) (written [] .commissioned))
      ∧ ([14000, 15500, 17000, 18500, 20000, 21500, 23000, 30000] : List Nat).Pairwise (fun x y => x ≤ y)
      ∧ ¬ ([14000, 0] : List Nat).Pairwise (fun x y => x ≤ y) ∧ RisingRun [some 0, some 86399, none, none]
      ∧ ¬ RisingRun [none, some 5, none, none] ∧ legalItem .brk ⟨.queued 1728, .steady⟩
      ∧ legalItem .roving ⟨.urgent, .off⟩ ∧ legalItem .doff ⟨.fault, .blink1⟩ ∧ legalBlink ⟨64, 1⟩ := by
  refine ⟨by constructor <;> decide +kernel, ⟨rfl, rfl⟩, by decide, by decide +kernel, ?_, by unfold legalStopAction; decide,
    alone_none rfl (by decide) (by decide +kernel), by decide, by decide, ⟨[0, 86399], 2, by simp, by decide, rfl⟩, ?_, ?_,
    trivial, trivial, by unfold legalBlink; decide⟩
  · unfold legalCarriage; decide
  · rintro ⟨_ | ⟨x, starts⟩, unused, h, -, e⟩
    · exact h rfl
    · cases e
  · exact ⟨by decide, by decide⟩

/-- PC1, which covers spindles 1 to 24, is disabled or given other spindles: its record of spindle 1 is withdrawn, stays, moves
to PC2 or becomes unserved, and an unserved one finds the carriage that comes to cover it. -/
theorem witness_changedZones :
    let served : State := { shop with pds := { shop.pds with pc2 := { walker with mode := .parked } } }
    let queued := piece (.queued false false)
    let moved : PieceRecord := { queued with carriage := .pc2 }
    let nowhere := { shop with pds := { shop.pds with pc1 := { walker with zone := some ⟨2, 24⟩ } } }
    let offered := broken (.offered 0) (.piece (piece (.offered 4 2)))
    let off := command 0x40 (3 :: 0 :: 1 :: carriageEntryBytes ⟨⟨1, 24⟩, 3, 90, 3, false⟩)
    afterZone .pc1 false queued shop = queued
      ∧ afterZone .pc1 false queued { served with pds := { served.pds with pc1 := nowhere.pds.pc1 } } = moved
      ∧ afterZone .pc1 false queued nowhere = piece (.queued true false)
      ∧ afterZone .pc2 false (piece (.queued true false)) shop = queued
      ∧ afterZone .pc1 false (piece (.offered 4 2)) nowhere = piece (.offered 4 2)
      ∧ (carriage .pc1 offered).enabled = true ∧ openOffers .pc1 offered = [.jobCancel 4]
      ∧ outgoing .pc1 (run .carriageTableWrite (waiting off offered)) = [.jobCancel 4]
      ∧ recordAt 0 (run .carriageTableWrite (waiting off offered)) = some (.piece (piece (.queued true false))) := by
  decide +kernel

theorem witness_RefusedWritesChangeNothing :
    (command 0x40 [1, 0]).payload.length < 3 ∧ byteAt (command 0x40 [0, 0, 0]).payload 0 = 0
      ∧ 15 < byteAt (command 0x40 [16, 0, 0]).payload 0
      ∧ (fieldAt [1, 0, 0] 1 2 < Table.base .sectionTable ∧ Table.limit .sectionTable ≤ fieldAt [1, 0, 73] 1 2)
      ∧ Table.limit .sectionTable < fieldAt [1, 0, 72, 1, 1, 1, 1] 1 2 + 4 / Table.size .sectionTable
      ∧ 3 % Table.size .sectionTable ≠ 0 := by decide +kernel

/-- A mode that names nothing, a break floor above its range and one above its slip floor, an N of 1,729 and no on time. -/
theorem witness_entryRefused :
    entryRefused .sectionTable 72 [1, 3] ∧ entryRefused .detection 0 [3, 133, 3, 232, 1, 1, 0, 4]
      ∧ entryRefused .detection 0 [1, 245, 1, 244, 1, 1, 0, 4] ∧ entryRefused .lamp 0 [1, 0, 6, 193, 0]
      ∧ entryRefused .lamp 3 [0, 1, 1, 1] :=
  ⟨Or.inr (by decide), Or.inl (Or.inr (by decide)), Or.inr (Or.inr (Or.inl (by decide))),
    Or.inr ⟨0, by decide, Or.inr (Or.inl ⟨by decide, Or.inr (by decide)⟩)⟩, Or.inl (Or.inl (by decide))⟩

theorem witness_ReadsAnswerFromTheState :
    Ready (command 0x43 [1, 0, 1, 6, 192, 6, 191]) [] (waiting (command 0x43 [1, 0, 1, 6, 192, 6, 191]) shop)
      ∧ (command 0x43 [1, 0, 1, 6, 192, 6, 191]).payload = 1 :: (be 2 1 ++ be 2 1728 ++ be 2 1727)
      ∧ RecordClass.ofCode? 3 = some .notice ∧ 0 < (poolItem shop :: classRecords .notice 0 shop.pool.records).length
      ∧ Table.base .lamp ≤ 3 ∧ 3 < Table.limit .lamp
      ∧ (command 0x44 [1, 0, 0]).payload = [1, 0, 0] ∧ 5 < (6 : Byte).toNat ∧ 3 < 4 := by
  exact ⟨⟨rfl, rfl⟩, by decide +kernel, rfl, by decide, by decide, by decide, rfl, by decide, by decide⟩

/-- Reads that are refused, and one whose clear option is ignored. -/
theorem witness_refusedReads :
    (command 0x43 [0, 0, 0, 0, 0, 0, 3]).payload = 0 :: (be 2 0 ++ be 2 0 ++ be 2 3)
      ∧ (command 0x43 [1, 0, 2, 0, 1, 0, 0]).payload = 1 :: (be 2 2 ++ be 2 1 ++ be 2 0)
      ∧ (command 0x43 [3, 0, 5, 0, 0, 0, 0]).payload = 3 :: (be 2 5 ++ be 2 0 ++ be 2 0)
      ∧ (command 0x43 [5, 0, 3, 0, 0, 0, 1]).payload = 5 :: (be 2 3 ++ be 2 0 ++ be 2 1)
      ∧ (poolItem shop :: classRecords .notice 0 shop.pool.records).length ≤ 1
      ∧ (command 0x43 [2, 0, 0, 0, 0, 0]).payload = 2 :: [0, 0, 0, 0, 0]
      ∧ (command 0x41 [16, 0, 0, 0, 1]).payload = 16 :: [0, 0, 0, 1] ∧ 15 < (16 : Byte).toNat
      ∧ Table.limit .sectionTable ≤ fieldAt (command 0x41 [1, 0, 73, 0, 1]).payload 1 2
      ∧ (command 0x44 [0, 0]).payload.length < 3 ∧ (command 0x44 [2, 0, 0]).payload = 2 :: be 2 0
      ∧ (command 0x44 [1, 0, 5]).payload = 1 :: be 2 5 ∧ (command 0x44 [2, 0, 4]).payload = 2 :: be 2 4 := by
  decide +kernel

/-- An UNCONFIGURED part whose tables pass COMMISSION. -/
def ready : State :=
  { shop with part := .unconfigured, pds := { pc1 := walker, pc2 := walker }, pcu := { Pcu.reset with staged := some worked } }

theorem witness_CommissionStartsThePart :
    (command 0x42 [0, 0xC3, 0x50]).payload = 0 :: be 2 50000 ∧ (command 0x42 [0, 0xC3, 0x51]).payload = 0 :: be 2 50001
      ∧ (command 0x42 [0]).payload = [0] ∧ ready.part = .unconfigured ∧ ready.pds.pc1.zone ≠ none
      ∧ ready.pds.pc2.zone ≠ none ∧ RisingRun ready.scs.shifts
      ∧ ready.sgv.steps.Pairwise (fun x y => x ≤ y) ∧ ready.pcu.staged.map ProcessTable.inForce = some worked.inForce
      ∧ (∀ c : Carriage, present c.agent ready = true ∧ (ready.slc.tx.get c.agent).length < 4)
      ∧ ready.sgv.lastSent = min 7 ready.sgv.supervisorCap ∧ State.reset.pds.pc1.zone = none
      ∧ ¬ RisingRun [none] ∧ ¬ ([1, 0] : List Nat).Pairwise (fun x y => x ≤ y) := by
  refine ⟨by decide +kernel, by decide +kernel, rfl, rfl, by decide, by decide, ⟨[21600, 50400, 79200], 1, by simp, by decide, rfl⟩,
    by decide, rfl, fun c => by cases c <;> decide, by decide, rfl, ?_, by decide⟩
  rintro ⟨_ | ⟨x, starts⟩, unused, h, -, e⟩
  · exact h rfl
  · cases e

theorem witness_commands :
    (command 0x42 [1, 7]).payload = 1 :: [7] ∧ (command 0x42 [2]).payload = 2 :: []
      ∧ (withDoff .doffing shop).dfs.doff = some .doffing ∧ (withDoff .called shop).dfs.doff = some .called
      ∧ (command 0x42 [4, 3]).payload = 4 :: 3 :: [] ∧ 2 < (3 : Byte).toNat
      ∧ (withDoff (.fault .doffer) shop).dfs.doff = some (.fault .doffer)
      ∧ (withDoff (.fault .park) shop).dfs.doff = some (.fault .park)
      ∧ (command 0x42 [5, 6, 192]).payload = 5 :: be 2 1728 ∧ (command 0x42 [5, 6, 193]).payload = 5 :: be 2 1729
      ∧ (spindle 1 (withSpindle .locked shop)).state = .locked ∧ (spindle 1 shop).state ≠ .locked
      ∧ (7 : Byte).toNat ≤ 7 ∧ 7 < (8 : Byte).toNat ∧ min shop.sgv.governor.cap 7 = effectiveCap shop
      ∧ min shop.sgv.governor.cap 6 ≠ effectiveCap shop := by decide +kernel

theorem witness_DecommissionClosesTheJob :
    shop.part = .commissioned ∧ noticeEnabled .shiftClosed shop = true ∧ canGrant .notice shop = true
      ∧ none ∈ shop.pool.records := by decide +kernel

/-- A part whose positions stand FULL, one of full size with an EMPTY position, and one held by a stop. -/
theorem witness_RestartClearsTheWork :
    let empty := modSpindle 1 (fun e => { e with state := .running, roving := some ⟨0, .empty⟩ })
      { State.reset with part := .commissioned }
    let held := { shop with dfs := { shop.dfs with stop := some ⟨1, true, false⟩ } }
    (1 ≤ shop.rvm.marks.batchCount ∧ ∀ n e, (spindle n shop).state ≠ .blanked → (spindle n shop).roving = some e → e.mark = .full)
      ∧ SizesHold empty ∧ (spindle 1 empty).state ≠ .blanked ∧ (spindle 1 empty).roving = some ⟨0, .empty⟩
      ∧ heldStill held = true ∧ heldStill (withDoff (.fault .park) shop) = true ∧ heldStill shop = false
      ∧ shop.dfs.doff ≠ some .doffing ∧ present .pc1 shop = true := by
  refine ⟨⟨by decide, fun n e _ h => ?_⟩, by constructor <;> decide +kernel, by decide +kernel, by decide +kernel, rfl, rfl, rfl,
    by decide, rfl⟩
  have hs : spindle n shop = spinner ∨ spindle n shop = Spindle.reset := by
    unfold spindle
    rw [show shop.spindles = List.replicate 24 spinner from rfl, List.getD_eq_getElem?_getD, List.getElem?_replicate]
    split
    · exact Or.inl rfl
    · exact Or.inr rfl
  rcases hs with hs | hs <;> rw [hs] at h <;> cases h
  rfl

theorem witness_ApplyPartition :
    shop.pool.staged = none ∧ overflowSum ⟨509, 1, 1, 1⟩ shop ≤ 512 - Partition.sum ⟨509, 1, 1, 1⟩
      ∧ 512 - Partition.sum ⟨0, 512, 0, 0⟩
        < overflowSum ⟨0, 512, 0, 0⟩ (broken (.offered 0) (.piece (piece (.offered 4 2))))
      ∧ ∀ e ∈ shop.spindles, e.state.isUnlisted = false := by decide +kernel

theorem witness_ClockCommandsSetTheTime :
    (command 0x42 [9, 5, 59, 75, 0xFF, 0xFF]).payload = 9 :: 5 :: 59 :: 75 :: be 2 65535
      ∧ (command 0x42 [10, 0xC0]).payload = [10, 0xC0] ∧ (-64 : Int) ≤ (0xC0 : Byte).toInt ∧ (63 : Int) < (64 : Byte).toInt
      ∧ (0xBF : Byte).toInt < -64 ∧ (0x3F : Byte).toInt ≤ 63 ∧ shop.scs.trim = .none
      ∧ (withTrim (.owing (-1)) 0 shop).scs.trim ≠ .none ∧ State.reset.scs.valid = false
      ∧ (shop.scs.hours < 24 ∧ shop.scs.minutes < 60 ∧ shop.scs.seconds < 60) ∧ 30 ≤ shop.scs.seconds
      ∧ shop.scs.shifts[0]? = some (some (daySeconds (timeAfter { shop.scs with seconds := 59 }))) := by decide +kernel

theorem witness_ForwardSendsTheInnerFrame :
    (command 0x45 (List.replicate 6 1)).payload.length < 7 ∧ 7 ≤ (command 0x45 [1, 0, 0, 0, 0, 0, 0]).payload.length
      ∧ byteAt [0, 0, 0, 0, 0, 0, 0] 0 < 1 ∧ 72 < byteAt [73, 0, 0, 0, 0, 0, 0] 0 ∧ (sectionAt 72 shop).enabled = false
      ∧ (sectionAt 1 shop).enabled = true ∧ shop.fli.pass.length < 8 ∧ 12 ≤ byteAt [12] 0
      ∧ (command 0x42 [0, 7]).payload = 0 :: [7] ∧ (command 0x42 [9, 1, 2, 3, 4]).payload = 9 :: [1, 2, 3, 4]
      ∧ Ready (command 0x42 [5, 1]) [] (waiting (command 0x42 [5, 1]) shop) :=
  ⟨by decide +kernel, by decide +kernel, by decide, by decide, by decide +kernel, by decide +kernel, by decide +kernel, by decide,
    rfl, rfl, rfl, rfl⟩

/-! ### Counters cut short, staged tables and the sweep -/

/-- The part with every port counter at its top and every port queue full, the mill link busy. -/
def jammed : State :=
  { shop with
    slc := { shop.slc with rxError := 65535, rxOverflow := 65535, clash := 65535, txDrop := ⟨65535, 65535, 65535, 65535⟩,
                           rx := List.replicate 20 ⟨.ad, .parked, 0⟩, tx := { shop.slc.tx with ad := List.replicate 4 ⟨.doffStart, 0⟩ } }
    fli := { Fli.reset with forward := List.replicate 16 ⟨1, 2, []⟩, pass := List.replicate 8 [1], drive := List.replicate 4 .doffStop,
                            down := some (.inner []), rxError := 65535, unknownSection := 65535, forwardDrop := 65535,
                            passBusy := 65535, commandDrop := 65535 }
    mfh := { shop.mfh with frameNumber := some 1, tx := some ⟨.response, command 0 []⟩, rxError := 65535, rxOverflow := 65535 } }

/-- Each event that adds to a port counter at its top sets COUNTER_SATURATED (R106, R196, R198). -/
theorem witness_fullPorts :
    jammed.mfh.live.counterSaturated = false
      ∧ ([run (.frameLinkFrameDiscarded [0x70]) jammed, run (.survey (surveyFrame 72 41 [0, 150]).bytes) jammed,
          run (.survey (surveyFrame 1 41 [0, 150]).bytes) { jammed with part := .unconfigured },
          run (.sensorReply (replyFrame 53).bytes) jammed, run (.sensorReply (replyFrame 54).bytes) jammed,
          run .carrierDetectRise (withLine (.transmitting .ad ⟨.release, 0⟩ false false) jammed),
          run (.carrierDetectFall [0x55]) (withLine (.receiving true) jammed),
          run (.carrierDetectFall (heard (acceptFrame 0x70))) (withLine (.receiving true) jammed),
          run (.millLinkFrameReceived [0x81]) jammed,
          run (.millLinkFrameReceived (command 0x42 [3]).bytes)
            { jammed with mfh := { jammed.mfh with rx := List.replicate 8 (command 0x42 [3]) } },
          run (.millLinkFrameReceived (command 0x42 [3]).bytes)
            { jammed with mfh := { jammed.mfh with frameNumber := none, rx := List.replicate 8 (command 0x42 [3]) } },
          run .forward (waiting (command 0x45 [1, 0xF0, 1, 5, 0, 0, 0]) jammed), run .doffNow (waiting (command 0x42 [3]) jammed),
          run .doffClearResume (waiting (command 0x42 [4, 0]) (withDoff (.fault .doffer) jammed)),
          run .doffDone (withRx .ad .doffDone (withDoff .doffing jammed))].all fun t =>
        t.mfh.live.counterSaturated && t.mfh.latched.counterSaturated) = true := by decide +kernel

/-- The part with the shift's counters that the doff, the bays and the closings add to at their tops, at 23:59:59 of the last
day. -/
def worn (s : State) : State :=
  let full : Closures := ⟨65535, 65535, 65535, 65535, 65535, 65535, 65535⟩
  { s with
    pcu := { s.pcu with frame := { s.pcu.frame with doffs := 65535, baysDone := 65535, fullCops := 65535, closures := full } }
    scs := { s.scs with hours := 23, day := 65535, sub := 255 } }

/-- A doff done, a bay done, DOFFING entry with an open break, a blanked break, a RESTART and the midnight after day 65,535
each set COUNTER_SATURATED (R37, R172). -/
theorem witness_fullShift :
    let open' (s : State) : State := worn { s with spindles := s.spindles.set 0 { spinner with state := .broken 0 } }
    dayStays (worn shop).scs = true ∧ some (daySeconds (timeAfter (worn shop).scs)) ∉ (worn shop).scs.shifts
      ∧ openBreaks (open' shop) = 1 ∧ doffClosures (open' shop).spindles = 1
      ∧ ([run .doffDone (withRx .ad .doffDone (withDoff .doffing (worn shop))),
          run .doffClearManualDone (waiting (command 0x42 [4, 1]) (withDoff (.fault .doffer) (worn shop))),
          run .bayDone (worn (asked (.accepted 2) (.bayDone 1 [1]) .running)), run .parked (open' (called (some true))),
          run .spindleTableWrite (waiting (command 0x40 [2, 0, 1, 0, 0]) (open' shop)),
          run .restart (waiting (command 0x42 [2]) (open' shop)), run .secondEvent (worn shop), run .subSecondStep (worn shop),
          run .clockAlign (waiting (command 0x42 [11]) (worn shop))].all fun t =>
        t.mfh.live.counterSaturated && t.mfh.latched.counterSaturated) = true := by decide +kernel

/-- A part of full size whose first spindle's break is to be closed BLANK, the count at its top. -/
theorem witness_fullBlank :
    let s := worn (withSpindle (.broken 0) (written [2, 0, 1, 0, 0] .commissioned))
    SizesHold s ∧ Alone 0 1 s ∧ (spindle 1 s).state.openBreak = true ∧ 65535 ≤ s.pcu.frame.closures.blank :=
  ⟨by constructor <;> decide +kernel, alone_zero rfl (by decide) (by decide +kernel), by decide +kernel⟩

/-- A cop count at its top is cut short at DOFFING entry, and a slip count by a survey. -/
theorem witness_fullCounts :
    let built := worn { called (some true) with spindles := List.replicate 24 { spinner with build := 4294967295 } }
    fullCopsOf worked.inForce built.spindles = 24 ∧ (run .parked built).mfh.live.counterSaturated = true
      ∧ Classified (surveyFrame 1 41 [0, 130]).bytes (surveyFrame 1 41 [0, 130]) toppedOut
      ∧ readsSlow (surveyFrame 1 41 [0, 130]) 0 toppedOut = true
      ∧ (run (.survey (surveyFrame 1 41 [0, 130]).bytes) toppedOut).mfh.live.counterSaturated = true :=
  ⟨by decide +kernel, by decide +kernel, classified_shop (by decide +kernel) rfl rfl toppedOut rfl rfl rfl, by decide +kernel,
    by decide +kernel⟩

/-- The close of a shift by command, by the clock and by CLOCK_ALIGN, COMMISSION and DECOMMISSION leave the live flag
COUNTER_SATURATED clear; a RESTART leaves it set (R37, R48, R49). -/
theorem witness_saturationCleared :
    let set (s : State) : State := setFlags .counterSaturated s
    let live (t : State) : Bool := t.mfh.live.counterSaturated
    (set shop).mfh.live.counterSaturated = true
      ∧ [run .shiftClose (waiting (command 0x42 [8]) (set shop)), run .secondEvent (set shop),
          run .clockAlign (waiting (command 0x42 [11]) (set shop)), run .commission (waiting (command 0x42 [0]) (set ready)),
          run .decommission (waiting (command 0x42 [1]) (set shop)), run .restart (waiting (command 0x42 [2]) (set shop))].map live
        = [false, false, false, false, false, true]
      ∧ (run .shiftClose (waiting (command 0x42 [8]) (set shop))).mfh.latched.counterSaturated = true
      ∧ (run .commission (waiting (command 0x42 [0]) { ready with fli := jammed.fli })).mfh.latched.counterSaturated = true
      ∧ (run .commission (waiting (command 0x42 [0]) { ready with fli := jammed.fli })).mfh.live.counterSaturated = false := by
  decide +kernel

/-- 2.6: the staged table of draft 4,200 comes into force at DOFFING entry and rescales the creel. -/
theorem witness_stagedTableTurn :
    let s : State := { called (some true) with pcu := { shop.pcu with staged := some { worked with draft := 4200 } } }
    let t := run .parked s
    EntersDoffing .parked s t ∧ budgetOf { worked with draft := 4200 } = 811300253 ∧ t.pcu.staged = none
      ∧ t.pcu.inForce.map InForce.budget = some 811300253 ∧ (spindle 1 t).roving = some ⟨405650126, .full⟩
      ∧ rescaled { worked with draft := 4200 } s ⟨1, .full⟩ = ⟨1, .low⟩ := by
  refine ⟨⟨.inr (.inl rfl), rfl, by decide +kernel⟩, by decide +kernel⟩

/-- A full-sized part about to enter DOFFING with a staged process table, the rescale of its last position's one pulse leaving
none; in a part of one section such a position is requested at the entry. -/
theorem witness_doffingCalls :
    let x : ProcessTable := { worked with draft := 1000 }
    let ending (s : State) : State :=
      { s with pcu := { s.pcu with staged := some x }
               spindles := s.spindles.take (s.spindles.length - 1) ++ [{ spinner with roving := some ⟨1, .low⟩ }] }
    SizesHold (ending nearlyDoff) ∧ (ending nearlyDoff).pcu.staged = some x
      ∧ (spindle 1728 (ending nearlyDoff)).state ≠ .blanked ∧ (spindle 1728 (ending nearlyDoff)).roving = some ⟨1, .low⟩
      ∧ (rescaled x (ending nearlyDoff) ⟨1, .low⟩).mark = .overrun
      ∧ (requestOf 1 (run .parked (ending (called (some true))))).map (fun r => r.2.positions) = some [24] :=
  ⟨by constructor <;> decide +kernel, rfl, by decide +kernel⟩

/-- A staged partition at DOFFING entry: applied where it says so and fits, and staged still where it is not to be applied at
the doff or the eight notices of the pool overflow it. -/
theorem witness_stagedPartitionTurn :
    let notices := List.replicate 8 (some (JobRecord.notice Notice.atReset)) ++ List.replicate 8 none
    let turn (p : StagedPartition) : Pool :=
      (run .parked { called (some true) with pool := { shop.pool with records := notices, staged := some p } }).pool
    (turn ⟨⟨200, 60, 24, 64⟩, true⟩).reserves = ⟨200, 60, 24, 64⟩ ∧ (turn ⟨⟨200, 60, 24, 64⟩, true⟩).staged = none
      ∧ (turn ⟨⟨200, 60, 24, 64⟩, false⟩).reserves = shop.pool.reserves
      ∧ (turn ⟨⟨200, 60, 24, 64⟩, false⟩).staged = some ⟨⟨200, 60, 24, 64⟩, false⟩
      ∧ (turn ⟨⟨508, 1, 1, 1⟩, true⟩).reserves = shop.pool.reserves
      ∧ (turn ⟨⟨508, 1, 1, 1⟩, true⟩).staged = some ⟨⟨508, 1, 1, 1⟩, true⟩ := by decide +kernel

/-- Commands that bring a staged table into force. -/
theorem witness_TablesChangeOnlyByTheirWrites :
    let t := run .commission (waiting (command 0x42 [0]) ready)
    let staged : State := { shop with pool := { shop.pool with staged := some ⟨⟨200, 60, 24, 64⟩, false⟩ } }
    t.pcu.inForce ≠ ready.pcu.inForce ∧ t.pcu.staged ≠ ready.pcu.staged
      ∧ (run .applyPartition (waiting (command 0x42 [7]) staged)).pool.reserves = ⟨200, 60, 24, 64⟩ := by decide +kernel

/-- Credits and their frame: the build of a spindle in a LIVE section, none in a SILENT one, and a stopped report's class
alone. -/
theorem witness_creditsAndFrame :
    let r := Instr.driveReport (reportFrame 3000 900 500 0 0 7).bytes
    let stopped := run (.driveReport (reportFrame 0 0 500 2 1 7).bytes) shop
    (spindle 1 (run r shop)).build = 3000 ∧ (spindle 1 (run r (moded .digest true))).build = 0
      ∧ reportCompletes .stopped shop = false ∧ [0, 1, 2, 3].map stopped.pcu.frame.downtime.get = [0, 500, 0, 0] := by
  decide +kernel

/-- The lowest-numbered free record goes to a notice, and to a confirmed break with roving and without it; a pool with no place
leaves the break UNLISTED. -/
theorem witness_lowestFreeRecord :
    let holed (reserves : Partition) : State := { shop with pool := { shop.pool with
      records := [some (.notice .atReset), none, some (.notice .atReset), none, none, none], reserves } }
    let s := holed shop.pool.reserves
    let bare := modSpindle 1 (fun e => { e with rovingAbsent := true }) s
    (recordAt 0 s ≠ none ∧ recordAt 1 s = none ∧ canGrant .piece s = true ∧ canGrant .hold bare = true)
      ∧ (recordAt 1 (raise .doffState [] s)).isSome = true
      ∧ (recordAt 1 (confirmBreak 1 false s)).map JobRecord.cls = some .piece
      ∧ (recordAt 1 (confirmBreak 1 false bare)).map JobRecord.cls = some .hold
      ∧ (canGrant .piece (holed ⟨0, 510, 0, 2⟩) = false)
      ∧ (spindle 1 (confirmBreak 1 false (holed ⟨0, 510, 0, 2⟩))).state = .unlisted 0 false .runBreak := by decide +kernel

/-- A carriage that no longer serves its spindle: a declined, failed, skipped or expired record goes to PC2, and a failed
verification's too. -/
theorem witness_cameBack :
    let moved (st : SpindleState) (p : PieceRecord) : State :=
      { broken st (.piece p) with pds := { pc1 := { walker with enabled := false }, pc2 := { walker with mode := .parked } } }
    let p := piece (.accepted 4 0)
    let s (m : AgentMsg) : State := withRx .pc1 m (moved (.offered 0) p)
    let back (attempts : Nat) : Option JobRecord :=
      some (.piece { piece (.queued false false) with carriage := .pc2, attempts })
    (∀ m, Matches .pc1 4 0 p (s m) ∧ Alone 0 1 (s m)) ∧ (carriage .pc1 (s .parked)).candidate 1 = false
      ∧ reassigned p (s .parked) = { piece (.queued false false) with carriage := .pc2 }
      ∧ recordAt 0 (run .jobDecline (s (.decline 4))) = back 0 ∧ recordAt 0 (run .jobResult (s (.result 4 1))) = back 1
      ∧ recordAt 0 (run .jobResult (s (.result 4 3))) = back 0 ∧ recordAt 0 (run (.resultDeadlineExpiry 0) (s .parked)) = back 1
      ∧ recordAt 0 (run (.acceptDeadlineExpiry 0) (moved (.offered 0) (piece (.offered 4 0)))) = back 0
      ∧ recordAt 0 (applyReading 1 .low (moved .verify (piece (.verifying 9)))).state = back 1 :=
  ⟨fun _ => ⟨matches_zero rfl rfl rfl,
    alone_zero rfl (by decide) (one_le_broken (.offered 0) (.piece (piece (.accepted 4 0))))⟩, by decide +kernel⟩

/-- HOLD at its reserve of none, and free shared records. -/
theorem witness_noRovingOnSharedRecords :
    let p := piece (.accepted 4 2)
    let b := broken (.offered 0) (.piece p)
    let s : State := withRx .pc1 (.result 4 2) { b with pool := { b.pool with reserves := ⟨256, 0, 24, 64⟩ } }
    Matches .pc1 4 0 p s ∧ Alone 0 1 s ∧ s.pool.reserves.hold ≤ inUse .hold s ∧ 2 < freeShared (setRecord 0 none s)
      ∧ recordAt 0 (run .jobResult s) = some (.hold ⟨1, .runBreak, none⟩)
      ∧ (spindle 1 (run .jobResult s)).state = .rovingWait 0 :=
  ⟨matches_zero rfl rfl rfl, alone_zero rfl (by decide) (by decide +kernel), by decide +kernel⟩

/-- Spindles 5 and 9 UNLISTED, in a pool that holds one record and has no shared portion, `free` records being free. -/
def crowded (free : Nat) (j : JobRecord) (reserves : Partition) : State :=
  let s := setState 9 (.unlisted 0 true .startup) (setState 5 (.unlisted 1 false .runBreak) shop)
  { s with pool := { records := some j :: List.replicate free none, reserves, staged := none } }

theorem sweepable_crowded {j : JobRecord} {s : State} (h : s.pool.records = some j :: List.replicate 511 none)
    (hj : j.isPiece = false) (fits : PoolFits s) : Sweepable s :=
  ⟨by rw [h, List.length_cons, List.length_replicate], fits, fun _ _ hq => by rw [← (only_record h hq).2] at hj; cases hj⟩

/-- The end of a sent NOTICE, a BAY_DONE and an applied partition: with one PIECE place the lower spindle is handed the lowest
free record and the higher stays UNLISTED; with a HOLD place too, both are handed theirs in turn. -/
theorem witness_Swept :
    let sent (free : Nat) (reserves : Partition) : State :=
      let s := crowded free (.notice .atReset) reserves
      { s with mfh := { s.mfh with frameNumber := some 1, tx := some ⟨.notice 0, command 0 []⟩ } }
    let done (free : Nat) : State :=
      let s := withRx .rt (.bayDone 1 [1]) (crowded free (.bay (request (.accepted 2))) ⟨1, 0, 1, 510⟩)
      { s with rvm := { s.rvm with requests := [0] } }
    let staged (free : Nat) : State :=
      let s := crowded free (.notice .atReset) ⟨0, 0, 1, 511⟩
      waiting (command 0x42 [7]) { s with pool := { s.pool with staged := some ⟨⟨1, 0, 1, 510⟩, false⟩ } }
    let states (t : State) : List SpindleState := [5, 9].map fun n => (spindle n t).state
    (Sweepable (sent 511 ⟨1, 0, 1, 510⟩) ∧ Sweepable (sent 511 ⟨1, 1, 1, 509⟩) ∧ Sweepable (done 511) ∧ Sweepable (staged 511))
      ∧ handed (sent 7 ⟨1, 0, 1, 510⟩) = [5] ∧ handed (sent 7 ⟨1, 1, 1, 509⟩) = [5, 9]
      ∧ states (run .millLinkFrameEnd (sent 7 ⟨1, 0, 1, 510⟩)) = [.offered 0, .unlisted 0 true .startup]
      ∧ states (run .millLinkFrameEnd (sent 7 ⟨1, 1, 1, 509⟩)) = [.offered 0, .rovingWait 0]
      ∧ states (run .bayDone (done 7)) = [.offered 0, .unlisted 0 true .startup]
      ∧ states (run .applyPartition (staged 7)) = [.offered 0, .unlisted 0 true .startup] := by
  refine ⟨⟨sweepable_crowded rfl rfl ⟨by decide +kernel, fun p h => (by cases h), by decide +kernel⟩,
    sweepable_crowded rfl rfl ⟨by decide +kernel, fun p h => (by cases h), by decide +kernel⟩,
    sweepable_crowded rfl rfl ⟨by decide +kernel, fun p h => (by cases h), by decide +kernel⟩,
    sweepable_crowded rfl rfl ⟨by decide +kernel, fun p h => (by cases h; decide), by decide +kernel⟩⟩, by decide +kernel⟩

end Sys2Proof.Tests
end

section
/-! SUPPORT. Rules for the frames on their way to the agents: what the placing of a frame adds to them, which conditions it
sets, when its owner is told (R102, R103, R206). -/

namespace Sys2Proof.Safety

set_option Elab.async false

open Sys2Proof.Machine

/-! ## Conditions that stay set (R37, R206) -/

/-- Both flags of condition `d` that are set in `s` are still set in `t`. -/
structure Persists (d : Cond) (s t : State) : Prop where
  live : s.mfh.live.get d = true → t.mfh.live.get d = true
  latched : s.mfh.latched.get d = true → t.mfh.latched.get d = true

theorem Persists.of_mfh {d : Cond} {s t : State} (h : t.mfh = s.mfh) : Persists d s t := by
  constructor <;> simp [h]

theorem Persists.refl (d : Cond) (s : State) : Persists d s s := .of_mfh rfl

theorem Persists.trans {d : Cond} {s t u : State} (h : Persists d s t) (k : Persists d t u) : Persists d s u :=
  ⟨k.live ∘ h.live, k.latched ∘ h.latched⟩

theorem Kept.persists {C : List Area} {s t : State} (h : Kept C s t) {d : Cond} (hd : Area.cond d ∉ C) :
    Persists d s t := by
  obtain ⟨live, latched⟩ := h.same (.cond d) hd
  exact ⟨fun hs => live.trans hs, fun hs => latched.trans hs⟩

theorem setFlags_persists (c d : Cond) (s : State) : Persists d s (setFlags c s) := by
  by_cases h : d = c
  · subst h
    exact ⟨fun _ => CondFlags.get_put_same .., fun _ => CondFlags.get_put_same ..⟩
  · exact (setFlags_kept c s).persists (by simpa using h)

theorem clearLive_persists {c d : Cond} (h : d ≠ c) (s : State) : Persists d s (clearLive c s) :=
  (clearLive_kept c s).persists (by simpa using h)

theorem joinNotices_persists (r : Nat) (d : Cond) (s : State) : Persists d s (joinNotices r s) :=
  (joinNotices_kept r s).persists (by simp [millSends])

theorem raiseDepth_persists (d : Cond) : ∀ (n : Nat) (k : NoticeKind) (args : List Int) (s : State),
    Persists d s (raiseDepth n k args s)
  | 0, _, _, s => Persists.refl d s
  | n + 1, k, args, s => by
    unfold raiseDepth
    split
    · exact Persists.refl d s
    · refine Persists.trans ((nextNoticeNumber_kept s).persists (by simp)) ?_
      dsimp only
      split
      · next r s1 granted =>
        refine Persists.trans ((grant_kept granted).persists (by simp)) ((joinNotices_persists r d s1).trans ?_)
        split
        · exact (setFlags_persists ..).trans (raiseDepth_persists d n ..)
        · exact Persists.refl d _
      · refine Persists.trans ((addLost_kept _).persists (by simp)) ?_
        split
        · exact (setFlags_persists ..).trans (raiseDepth_persists d n ..)
        · exact Persists.refl d _

theorem raise_persists (d : Cond) (k : NoticeKind) (args : List Int) (s : State) : Persists d s (raise k args s) :=
  raiseDepth_persists d 3 k args s

theorem rise_persists (c d : Cond) (s : State) : Persists d s (rise c s) := by
  unfold rise
  split
  · exact Persists.refl d s
  · exact (setFlags_persists c d s).trans (raise_persists ..)

theorem setCond_persists {c d : Cond} (h : d ≠ c) (v : Bool) (s : State) : Persists d s (setCond c v s) := by
  cases v
  · exact clearLive_persists h s
  · exact rise_persists c d s

theorem testLevel_persists {d : Cond} (h : d ≠ .slcLevel) (s : State) : Persists d s (testLevel s) :=
  setCond_persists h _ s

theorem rise_live (c : Cond) (s : State) : (rise c s).mfh.live.get c = true := by
  unfold rise
  split
  · assumption
  · exact (raise_persists ..).live (CondFlags.get_put_same ..)

theorem rise_latched {c : Cond} {s : State} (h : s.mfh.live.get c = false) : (rise c s).mfh.latched.get c = true := by
  unfold rise
  split
  · next set => exact absurd set (by simp [isLive, h])
  · exact (raise_persists ..).latched (CondFlags.get_put_same ..)

/-- A live flag is what its test found. -/
theorem setCond_live (c : Cond) (v : Bool) (s : State) : (setCond c v s).mfh.live.get c = v := by
  cases v
  · exact CondFlags.get_put_same ..
  · exact rise_live c s

theorem testLevel_live (s : State) :
    (testLevel s).mfh.live.slcLevel = decide (s.slc.table.levelThreshold < s.slc.rx.length) :=
  setCond_live .slcLevel _ s

/-- COUNTER_SATURATED rises over a state that holds the flags of `s`. -/
theorem rise_saturated {s t : State} (h : t.mfh = s.mfh) : Saturated s (rise .counterSaturated t) :=
  ⟨rise_live .counterSaturated t, fun clear => rise_latched (c := .counterSaturated) (h ▸ clear)⟩

theorem Saturated.persists {s t u : State} (h : Saturated s t) (k : Persists .counterSaturated t u) : Saturated s u :=
  ⟨k.live h.live, k.latched ∘ h.latched⟩

/-! ## Frames on their way to an agent (R102, R103) -/

theorem outgoing_eq {a : Agent} {s t : State} (line : t.slc.line = s.slc.line)
    (queue : t.slc.tx.get a = s.slc.tx.get a) : outgoing a t = outgoing a s := by
  simp only [outgoing, onAir, line, queue]

theorem Kept.outgoing {C : List Area} {s t : State} (h : Kept C s t) (line : Area.line ∉ C) (queue : Area.serviceTx ∉ C)
    (a : Agent) : outgoing a t = outgoing a s :=
  outgoing_eq (h.same .line line) (congrArg (PerAgent.get · a) (h.same .serviceTx queue))

/-- On a quiet line every frame for an agent waits in its source queue. -/
theorem outgoing_quiet {s : State} {ms : Nat} (h : s.slc.line = .quiet ms) (a : Agent) :
    outgoing a s = (s.slc.tx.get a).map SvcFrame.msg := by
  simp [outgoing, onAir, h]

theorem quiet_of_lineFree {s : State} (h : lineFree s = true) : ∃ ms, s.slc.line = .quiet ms := by
  unfold lineFree at h
  split at h
  · exact ⟨_, ‹_›⟩
  · cases h

/-- A frame that begins goes from its queue onto the line: it is on its way as before. -/
theorem outgoing_sendFrom {s : State} {ms : Nat} (h : s.slc.line = .quiet ms) (a b : Agent) :
    outgoing b (sendFrom a s) = outgoing b s := by
  rw [outgoing_quiet h]
  unfold sendFrom
  split
  · exact outgoing_quiet h b
  · next f rest queue =>
    by_cases e : b = a
    · subst e
      simp [outgoing, onAir, queue]
    · simp [outgoing, onAir, Ne.symm e, PerAgent.get_put_other _ _ e]

theorem outgoing_serviceBegin (b : Agent) (s : State) : outgoing b (serviceBegin s) = outgoing b s := by
  unfold serviceBegin
  split
  · next free =>
    obtain ⟨ms, quiet⟩ := quiet_of_lineFree free
    split
    · exact outgoing_sendFrom quiet ..
    · rfl
  · rfl

theorem outgoing_enqueue_same (a : Agent) (m : SvcMsg) (s : State) : outgoing a (enqueue a m s) = outgoing a s ++ [m] := by
  simp [outgoing, onAir, enqueue]

theorem outgoing_enqueue_other {a b : Agent} (m : SvcMsg) (s : State) (h : b ≠ a) :
    outgoing b (enqueue a m s) = outgoing b s :=
  outgoing_eq rfl (PerAgent.get_put_other _ _ h)

theorem outgoing_countDrop (a b : Agent) (s : State) : outgoing b (countDrop a s) = outgoing b s :=
  (countDrop_kept a s).outgoing (by decide) (by decide) b

theorem hasRoom_iff (a : Agent) (s : State) : hasRoom a s = true ↔ (s.slc.tx.get a).length < 4 :=
  decide_eq_true_iff

theorem place_of_room {a : Agent} {s : State} (m : SvcMsg) (h : (s.slc.tx.get a).length < 4) :
    place a m s = serviceBegin (enqueue a m s) :=
  if_pos ((hasRoom_iff a s).mpr h)

theorem place_of_full {a : Agent} {s : State} (m : SvcMsg) (h : 4 ≤ (s.slc.tx.get a).length) :
    place a m s = countDrop a s :=
  if_neg fun room => absurd ((hasRoom_iff a s).mp room) (by omega)

theorem outgoing_place_same {a : Agent} {s : State} (m : SvcMsg) (h : (s.slc.tx.get a).length < 4) :
    outgoing a (place a m s) = outgoing a s ++ [m] := by
  rw [place_of_room m h, outgoing_serviceBegin, outgoing_enqueue_same]

theorem outgoing_place_full {a : Agent} {s : State} (m : SvcMsg) (h : 4 ≤ (s.slc.tx.get a).length) :
    outgoing a (place a m s) = outgoing a s := by
  rw [place_of_full m h, outgoing_countDrop]

theorem outgoing_place_other {a b : Agent} (m : SvcMsg) (s : State) (h : b ≠ a) :
    outgoing b (place a m s) = outgoing b s := by
  unfold place
  split
  · rw [outgoing_serviceBegin, outgoing_enqueue_other m s h]
  · exact outgoing_countDrop a b s

theorem countDrop_txDrop (a : Agent) (s : State) :
    (countDrop a s).slc.txDrop = s.slc.txDrop.put a (min 65535 (s.slc.txDrop.get a + 1)) :=
  (saturated_kept _ _).same .drops (by decide)

theorem countDrop_saturated {a : Agent} {s : State} (h : 65535 ≤ s.slc.txDrop.get a) : Saturated s (countDrop a s) := by
  have cut : cutShort max16 (s.slc.txDrop.get a) 1 = true := by simp [cutShort, max16]; omega
  simp only [countDrop, saturated, cut, if_true]
  exact rise_saturated rfl

theorem place_txDrop_of_room {a : Agent} {s : State} (m : SvcMsg) (h : (s.slc.tx.get a).length < 4) :
    (place a m s).slc.txDrop = s.slc.txDrop := by
  rw [place_of_room m h]
  exact (serviceBegin_kept (enqueue a m s)).same .drops (by decide)

theorem place_txDrop_other {a b : Agent} (m : SvcMsg) (s : State) (h : b ≠ a) :
    (place a m s).slc.txDrop.get b = s.slc.txDrop.get b := by
  obtain room | full := Nat.lt_or_ge (s.slc.tx.get a).length 4
  · rw [place_txDrop_of_room m room]
  · rw [place_of_full m full, countDrop_txDrop, PerAgent.get_put_other _ _ h]

theorem place_placed (a : Agent) (m : SvcMsg) (s : State) : Placed a m s (place a m s) where
  sent room := ⟨outgoing_place_same m room, place_txDrop_of_room m room⟩
  dropped full := ⟨outgoing_place_full m full, by rw [place_of_full m full, countDrop_txDrop, PerAgent.get_put_same]⟩
  others _ h := ⟨outgoing_place_other m s h, place_txDrop_other m s h⟩
  full full top := by
    rw [place_of_full m full]
    exact countDrop_saturated top

/-- What leaves the line, the source queues and the drop counters as they are keeps a frame placed. -/
theorem Placed.kept {a : Agent} {m : SvcMsg} {C : List Area} {s t u : State} (h : Placed a m s t) (k : Kept C t u)
    (line : Area.line ∉ C) (queue : Area.serviceTx ∉ C) (drops : Area.drops ∉ C)
    (flag : Persists .counterSaturated t u) : Placed a m s u := by
  have out : ∀ b, outgoing b u = outgoing b t := k.outgoing line queue
  have drop : u.slc.txDrop = t.slc.txDrop := k.same .drops drops
  constructor
  case sent => simpa only [out, drop] using h.sent
  case dropped => simpa only [out, drop] using h.dropped
  case others => simpa only [out, drop] using h.others
  case full => exact fun full top => (h.full full top).persists flag

/-! ## The owner of a frame that begins is told (R95, R103) -/

theorem serviceBegin_busy {s : State} (h : lineFree s = false) : serviceBegin s = s := by
  simp [serviceBegin, h]

/-- On a line that is not free a placed frame waits. -/
theorem place_line_of_busy (a : Agent) (m : SvcMsg) {s : State} (h : lineFree s = false) :
    (place a m s).slc.line = s.slc.line := by
  unfold place
  split
  · rw [serviceBegin_busy (s := enqueue a m s) h]
    rfl
  · exact (countDrop_kept a s).same .line (by decide)

theorem placeTold_of_busy (a : Agent) (m : SvcMsg) {s : State} (h : lineFree s = false) :
    placeTold a m s = place a m s := by
  obtain e | ⟨b, before, after, -⟩ := telling_cases (place a m) s
  · exact e
  · have same : sendingFrom (place a m s) = sendingFrom s := by simp only [sendingFrom, place_line_of_busy a m h]
    rw [same, before] at after
    cases after

/-- The state in which agent `a`'s one frame `m` has begun. -/
def begun (a : Agent) (m : SvcMsg) (s : State) : State :=
  { s with
    slc := { s.slc with
      line := .transmitting a { msg := m, seq := Config.freeByte s.freeCount } false false
      pointer := a }
    freeCount := s.freeCount + 1 }

theorem PerAgent.put_put_empty {α : Type} {p : PerAgent (List α)} {a : Agent} (l : List α) (h : p.get a = []) :
    (p.put a l).put a [] = p := by
  cases a <;> simp only [PerAgent.put, ← h] <;> rfl

/-- The round robin comes to the only source that holds a frame. -/
theorem nextSource_only {a : Agent} {s : State} (h : ∀ b, (s.slc.tx.get b).isEmpty = !decide (b = a)) :
    nextSource s = some a := by
  simp only [nextSource, h, Bool.not_not]
  cases s.slc.pointer <;> cases a <;> rfl

/-- A frame placed on a free line, with no other to send, begins at once (R95). -/
theorem place_begins (a : Agent) (m : SvcMsg) {s : State} (free : lineFree s = true) (empty : ∀ b, s.slc.tx.get b = []) :
    place a m s = begun a m s := by
  have next : nextSource (enqueue a m s) = some a := nextSource_only fun b => by
    by_cases e : b = a
    · subst e
      simp [enqueue]
    · simp [enqueue, PerAgent.get_put_other _ _ e, empty, e]
  have queue : (enqueue a m s).slc.tx.get a = [{ msg := m, seq := Config.freeByte s.freeCount }] := by
    simp [enqueue, empty]
  rw [place_of_room m (by simp [empty])]
  simp only [serviceBegin, show lineFree (enqueue a m s) = true from free, if_true, next, sendFrom, queue]
  simp only [enqueue, empty, List.nil_append, PerAgent.put_put_empty _ (empty a)]
  rfl

theorem offerTest_of_none {c : Carriage} {s : State} (h : nextOffer c s = none) : offerTest c s = s := by
  simp [offerTest, offerOnce, h]

theorem bayOfferTest_of_none {s : State} (h : mayOfferBay s = false ∨ nextRequest s = none) : bayOfferTest s = s := by
  unfold bayOfferTest
  obtain h | h := h
  · simp [h]
  · simp [h]

theorem nearest_begun (a : Agent) (m : SvcMsg) (c : Carriage) (s : State) :
    ∀ l : List Nat, nearest c (begun a m s) l = nearest c s l
  | [] => rfl
  | r :: l => by
    simp only [nearest, nearest_begun a m c s l]
    rfl

/-- The offer test reads the source queues, not the line. -/
theorem nextOffer_begun (a : Agent) (m : SvcMsg) (c : Carriage) (s : State) : nextOffer c (begun a m s) = nextOffer c s := by
  simp only [nextOffer, nearest_begun]
  rfl

/-- The placing of a frame that brings no test of its owner with it is the placing alone. -/
theorem placeTold_of_quiet {a : Agent} {s : State} (m : SvcMsg) (h : Quiet a s) : placeTold a m s = place a m s := by
  cases free : lineFree s with
  | false => exact placeTold_of_busy a m free
  | true =>
    obtain busy | ⟨empty, idle⟩ := h
    · rw [free] at busy
      cases busy
    have begins := place_begins a m free empty
    obtain e | ⟨b, -, after, e⟩ := telling_cases (place a m) s
    · exact e
    · rw [begins] at after e
      cases after
      rw [placeTold, e, begins]
      cases a
      case pc1 => exact offerTest_of_none ((nextOffer_begun ..).trans idle)
      case pc2 => exact offerTest_of_none ((nextOffer_begun ..).trans idle)
      case ad => rfl
      case rt => exact bayOfferTest_of_none idle

/-! ## What the owner's test sends (R76, R103) -/

/-- From `s` to `t` nothing but JOB_OFFER frames joined those on their way to the agent. -/
def OffersFollow (a : Agent) (s t : State) : Prop :=
  ∃ offered, (∀ m ∈ offered, isOffer m = true) ∧ outgoing a t = outgoing a s ++ offered

theorem OffersFollow.of_eq {a : Agent} {s t : State} (h : outgoing a t = outgoing a s) : OffersFollow a s t :=
  ⟨[], by simp, by simp [h]⟩

theorem OffersFollow.trans {a : Agent} {s t u : State} (h : OffersFollow a s t) (k : OffersFollow a t u) :
    OffersFollow a s u := by
  obtain ⟨l, hl, el⟩ := h
  obtain ⟨l', hl', el'⟩ := k
  refine ⟨l ++ l', fun m hm => ?_, by rw [el', el, List.append_assoc]⟩
  exact (List.mem_append.mp hm).elim (hl m) (hl' m)

/-- A JOB_OFFER that is placed joins its agent's frames, or is dropped. -/
theorem place_offersFollow (a b : Agent) {m : SvcMsg} (s : State) (h : isOffer m = true) :
    OffersFollow b s (place a m s) := by
  by_cases e : b = a
  · subst e
    obtain room | full := Nat.lt_or_ge (s.slc.tx.get b).length 4
    · exact ⟨[m], by simpa using h, outgoing_place_same m room⟩
    · exact .of_eq (outgoing_place_full m full)
  · exact .of_eq (outgoing_place_other m s e)

theorem offer_offersFollow (c : Carriage) (r : Nat) (a : Agent) (s : State) : OffersFollow a s (offer c r s) := by
  unfold offer
  split
  · exact .of_eq rfl
  · refine OffersFollow.trans (.of_eq ?_) (place_offersFollow _ a _ rfl)
    exact outgoing_eq (by simp) (by simp)

theorem offerOnce_offersFollow (c : Carriage) (a : Agent) (s : State) : OffersFollow a s (offerOnce c s) := by
  unfold offerOnce
  split
  · exact offer_offersFollow ..
  · exact .of_eq rfl

theorem offerTest_offersFollow (c : Carriage) (a : Agent) (s : State) : OffersFollow a s (offerTest c s) :=
  (offerOnce_offersFollow c a s).trans (offerOnce_offersFollow c a _)

/-- The monitor's offer test sends to the transport alone. -/
theorem outgoing_bayOfferTest {a : Agent} (s : State) (h : a ≠ .rt) : outgoing a (bayOfferTest s) = outgoing a s := by
  unfold bayOfferTest
  split
  · split
    · exact outgoing_place_other _ _ h
    · rfl
  · rfl

theorem placeFreed_offersFollow (c : Carriage) (a : Agent) (s : State) : OffersFollow c.agent s (placeFreed a s) := by
  cases a
  case pc1 => exact offerTest_offersFollow ..
  case pc2 => exact offerTest_offersFollow ..
  case ad => exact .of_eq rfl
  case rt => exact .of_eq (outgoing_bayOfferTest s (by cases c <;> decide))

theorem placeTold_offersFollow (c : Carriage) (a : Agent) (m : SvcMsg) (s : State) :
    OffersFollow c.agent (place a m s) (placeTold a m s) := by
  obtain e | ⟨b, -, -, e⟩ := telling_cases (place a m) s
  · exact .of_eq (congrArg _ e)
  · rw [placeTold, e]
    exact placeFreed_offersFollow c b _

end Sys2Proof.Safety
end

section
/-! SUPPORT. Rules for the frame at the head of the receive queue and for the record that a carriage's frame matches
(R77, R80, R100). -/

namespace Sys2Proof.Safety

set_option Elab.async false

open Sys2Proof.Machine

/-! ## The frame at the head of the receive queue (R100, R101) -/

/-- The frame has left the receive queue, `rest` staying, and the command is done. -/
def handedOn (rest : List RxFrame) (s : State) : State :=
  refreshLamps (testLevel { s with slc := { s.slc with rx := rest } })

theorem finish_deliver {take : RxFrame → Option (State → State)} {effect : State → State} {f : RxFrame}
    {rest : List RxFrame} {s : State} (head : s.slc.rx = f :: rest) (taken : take f = some effect) :
    finish (deliver take s) = .next (handedOn rest (effect s)) := by
  simp only [deliver, head, taken]
  rfl

theorem handedOn_kept (rest : List RxFrame) (s : State) : Kept takings s (handedOn rest s) :=
  Kept.trans (leave_kept rest s).mono (refreshLamps_kept _).mono

theorem handedOn_persists {d : Cond} (h : d ≠ .slcLevel) (rest : List RxFrame) (s : State) :
    Persists d s (handedOn rest s) :=
  Persists.trans (t := { s with slc := { s.slc with rx := rest } }) (.of_mfh rfl)
    ((testLevel_persists h _).trans ((refreshLamps_kept _).persists (by simp)))

/-- An effect that leaves the service line table as it is leaves the frame handed on. -/
theorem handedOn_left (rest : List RxFrame) {s t : State} (h : t.slc.table = s.slc.table) :
    Left rest s (handedOn rest t) where
  queue := (testLevel_kept _).same .serviceRx (by decide)
  level := h ▸ testLevel_live { t with slc := { t.slc with rx := rest } }

theorem jobsOf_handedOn (rest : List RxFrame) (s : State) : jobsOf (handedOn rest s) = jobsOf s :=
  (handedOn_kept rest s).same .jobs (by decide)

theorem outgoing_handedOn (rest : List RxFrame) (a : Agent) (s : State) : outgoing a (handedOn rest s) = outgoing a s :=
  (handedOn_kept rest s).outgoing (by decide) (by decide) a

theorem Placed.handedOn {a : Agent} {m : SvcMsg} {s t : State} (h : Placed a m s t) (rest : List RxFrame) :
    Placed a m s (handedOn rest t) :=
  h.kept (handedOn_kept rest t) (by decide) (by decide) (by decide) (handedOn_persists (by decide) rest t)

/-! ## The record that a carriage's frame matches (R77, R80) -/

theorem mem_numbersFrom {α : Type} {p : α → Bool} {r : Nat} : ∀ {n : Nat} {l : List α},
    r ∈ numbersFrom p n l ↔ ∃ i a, r = n + i ∧ l[i]? = some a ∧ p a = true
  | n, [] => by simp [numbersFrom]
  | n, a :: l => by
    have step : (∃ i b, r = n + i ∧ (a :: l)[i]? = some b ∧ p b = true)
        ↔ r = n ∧ p a = true ∨ r ∈ numbersFrom p (n + 1) l := by
      rw [mem_numbersFrom]
      constructor
      · rintro ⟨_ | i, b, rfl, hb, pb⟩
        · cases hb
          exact .inl ⟨rfl, pb⟩
        · exact .inr ⟨i, b, by omega, hb, pb⟩
      · rintro (⟨rfl, pa⟩ | ⟨i, b, rfl, hb, pb⟩)
        · exact ⟨0, a, rfl, rfl, pa⟩
        · exact ⟨i + 1, b, by omega, hb, pb⟩
    rw [step, numbersFrom]
    split <;> simp [*]

theorem mem_recordsWhere {p : JobRecord → Bool} {r : Nat} {s : State} :
    r ∈ recordsWhere p s ↔ ∃ j, recordAt r s = some j ∧ p j = true := by
  simp [recordsWhere, mem_numbersFrom, recordAt, Option.any_eq_true, Option.join_eq_some_iff]

/-- The record waits for a reply from carriage `c` with tag `t`. -/
def awaits (c : Carriage) (t : Nat) : JobRecord → Bool
  | .piece p => decide (p.carriage = c) && tagged t p
  | _ => false

theorem awaits_iff {c : Carriage} {t : Nat} {j : JobRecord} :
    awaits c t j = true ↔ ∃ p, j = .piece p ∧ p.carriage = c ∧ tagged t p = true := by
  cases j <;> simp [awaits]

theorem matching_eq (c : Carriage) (t : Nat) (s : State) : matching c t s = (recordsWhere (awaits c t) s).head? := by
  refine congrArg (fun wanted => (recordsWhere wanted s).head?) (funext fun j => ?_)
  cases j <;> rfl

theorem matching_of_matches {c : Carriage} {t r : Nat} {p : PieceRecord} {s : State} (h : Matches c t r p s) :
    matching c t s = some r := by
  rw [matching_eq]
  have found : r ∈ recordsWhere (awaits c t) s :=
    mem_recordsWhere.mpr ⟨_, h.record, awaits_iff.mpr ⟨p, rfl, h.carriage, h.tag⟩⟩
  have only : ∀ q ∈ recordsWhere (awaits c t) s, q = r := fun q hq => by
    obtain ⟨_, at', waits⟩ := mem_recordsWhere.mp hq
    obtain ⟨p', rfl, hc, ht⟩ := awaits_iff.mp waits
    exact h.only q p' at' hc ht
  cases list : recordsWhere (awaits c t) s with
  | nil => rw [list] at found; cases found
  | cons q _ => exact congrArg some (only q (by simp [list]))

theorem matching_of_noMatch {c : Carriage} {t : Nat} {s : State} (h : NoMatch c t s) : matching c t s = none := by
  rw [matching_eq, List.head?_eq_none_iff, List.eq_nil_iff_forall_not_mem]
  intro q hq
  obtain ⟨_, at', waits⟩ := mem_recordsWhere.mp hq
  obtain ⟨p, rfl, hc, ht⟩ := awaits_iff.mp waits
  simp [h q p at' hc] at ht

theorem pieceAt_of_recordAt {r : Nat} {p : PieceRecord} {s : State} (h : recordAt r s = some (.piece p)) :
    pieceAt r s = some p := by
  simp [pieceAt, h]

theorem jobsOf_setPiece (r : Nat) (p : PieceRecord) (s : State) :
    jobsOf (setPiece r p s) = (jobsOf s).set r (some (.piece p)) := by
  simp [jobsOf, onlyJob, List.map_set]

end Sys2Proof.Safety
end

section
/-! The carriages' replies to an offer (chapter 4.7). -/

namespace Sys2Proof.Safety

set_option Elab.async false

open Sys2Proof.Machine

/-! ## JOB_ACCEPT (R80) -/

theorem jobAccept_of_offered {c : Carriage} {t r left : Nat} {p : PieceRecord} {s : State} (h : Matches c t r p s)
    (offered : p.phase = .offered t left) :
    jobAccept c t s = setPiece r { p with phase := .accepted t (carriage c s).resultTimeout } s := by
  simp only [jobAccept, matching_of_matches h, pieceAt_of_recordAt h.record, offered]

theorem jobAccept_of_accepted {c : Carriage} {t r left : Nat} {p : PieceRecord} {s : State} (h : Matches c t r p s)
    (accepted : p.phase = .accepted t left) : jobAccept c t s = s := by
  simp only [jobAccept, matching_of_matches h, pieceAt_of_recordAt h.record, accepted]

theorem jobAccept_of_noMatch {c : Carriage} {t : Nat} {s : State} (h : NoMatch c t s) :
    jobAccept c t s = placeTold c.agent (.jobCancel t) s := by
  simp only [jobAccept, matching_of_noMatch h]

/-- A JOB_ACCEPT at the head of the receive queue acts at the dispatcher, and is handed on. -/
theorem exec_jobAccept {c : Carriage} {tag : Nat} {seq : Byte} {rest : List RxFrame} {s : State}
    (head : s.slc.rx = { agent := c.agent, msg := .accept tag, seq := seq } :: rest) :
    exec .jobAccept s = .next (handedOn rest (jobAccept c tag s)) := by
  have taken : agentCarriage c.agent = some c := by cases c <;> rfl
  exact finish_deliver head (by simp only [taken])

/-- Settles O32: the matched record's phase decides; a stray answer is met by JOB_CANCEL, with the offers that its owner's
test adds. -/
theorem jobAcceptActsByItsRecord : Obligations.JobAcceptActsByItsRecord := by
  intro c tag seq rest s head
  have after := handedOn_kept rest (jobAccept c tag s)
  refine ⟨handedOn rest (jobAccept c tag s), exec_jobAccept head, ?_, ?_, ?_, ?_⟩
  · exact handedOn_left rest ((jobAccept_kept c tag s).same .serviceTable (by decide))
  · intro r p left matched offered
    rw [jobAccept_of_offered matched offered] at after ⊢
    exact ⟨(jobsOf_handedOn ..).trans (jobsOf_setPiece ..), (setPiece_kept ..).mono.trans after.mono⟩
  · intro r p left matched accepted
    rw [jobAccept_of_accepted matched accepted] at after ⊢
    exact after
  · intro stray
    rw [jobAccept_of_noMatch stray] at after ⊢
    refine ⟨fun quiet => ?_, fun room => ?_, (placeTold_kept ..).mono.trans after.mono⟩
    · rw [placeTold_of_quiet _ quiet] at after ⊢
      exact ⟨(place_placed ..).handedOn rest, (place_kept ..).mono.trans after.mono⟩
    · obtain ⟨offered, offers, sent⟩ := placeTold_offersFollow c c.agent (.jobCancel tag) s
      refine ⟨offered, offers, ?_⟩
      rw [outgoing_handedOn, sent, outgoing_place_same _ room, List.append_assoc, List.singleton_append]

end Sys2Proof.Safety
end

section
/-! SUPPORT. Rules for a frame placed with its owner told, whatever the owner's test sends after it, and for a bay request
written (R102, R103, R117). -/

namespace Sys2Proof.Safety

set_option Elab.async false

open Sys2Proof.Machine

/-! ## What follows a frame placed (R103) -/

/-- From `s` to `t` the frames on their way to the agent stay so in their order, with any new ones behind them. -/
def FramesFollow (a : Agent) (s t : State) : Prop := ∃ more, outgoing a t = outgoing a s ++ more

theorem FramesFollow.of_eq {a : Agent} {s t : State} (h : outgoing a t = outgoing a s) : FramesFollow a s t :=
  ⟨[], by simp [h]⟩

theorem FramesFollow.trans {a : Agent} {s t u : State} (h : FramesFollow a s t) (k : FramesFollow a t u) :
    FramesFollow a s u := by
  obtain ⟨more, sent⟩ := h
  obtain ⟨more', sent'⟩ := k
  exact ⟨more ++ more', by rw [sent', sent, List.append_assoc]⟩

theorem OffersFollow.framesFollow {a : Agent} {s t : State} (h : OffersFollow a s t) : FramesFollow a s t := by
  obtain ⟨offered, -, sent⟩ := h
  exact ⟨offered, sent⟩

theorem place_framesFollow (a b : Agent) (m : SvcMsg) (s : State) : FramesFollow b s (place a m s) := by
  by_cases e : b = a
  · subst e
    obtain room | full := Nat.lt_or_ge (s.slc.tx.get b).length 4
    · exact ⟨[m], outgoing_place_same m room⟩
    · exact .of_eq (outgoing_place_full m full)
  · exact .of_eq (outgoing_place_other m s e)

theorem bayOfferTest_framesFollow (a : Agent) (s : State) : FramesFollow a s (bayOfferTest s) := by
  unfold bayOfferTest
  split
  · split
    · refine FramesFollow.trans (.of_eq ?_) (place_framesFollow .rt a _ _)
      exact (setRequest_kept ..).outgoing (by decide) (by decide) a
    · exact .of_eq rfl
  · exact .of_eq rfl

theorem placeFreed_framesFollow (a b : Agent) (s : State) : FramesFollow b s (placeFreed a s) := by
  cases a
  case pc1 => exact (offerTest_offersFollow ..).framesFollow
  case pc2 => exact (offerTest_offersFollow ..).framesFollow
  case ad => exact .of_eq rfl
  case rt => exact bayOfferTest_framesFollow b s

theorem placeTold_framesFollow (a b : Agent) (m : SvcMsg) (s : State) :
    FramesFollow b (place a m s) (placeTold a m s) := by
  obtain e | ⟨d, -, -, e⟩ := telling_cases (place a m) s
  · exact .of_eq (congrArg _ e)
  · rw [placeTold, e]
    exact placeFreed_framesFollow d b _

/-- A frame placed where its queue has room is on its way, whatever the tests of the told owners send after it. -/
theorem outgoing_placeTold {a : Agent} {s : State} (m : SvcMsg) (room : (s.slc.tx.get a).length < 4) :
    ∃ more, outgoing a (placeTold a m s) = outgoing a s ++ m :: more := by
  obtain ⟨more, sent⟩ := placeTold_framesFollow a a m s
  exact ⟨more, by rw [sent, outgoing_place_same m room, List.append_assoc, List.singleton_append]⟩

/-! ## A bay request written (R117) -/

theorem jobsOf_setRequest (r : Nat) (q : BayRequest) (s : State) :
    jobsOf (setRequest r q s) = (jobsOf s).set r (some (.bay q)) := by
  simp [jobsOf, onlyJob, List.map_set]

theorem isBay_iff (b : Nat) : isBay b = true ↔ 1 ≤ b ∧ b ≤ 72 := by
  rw [isBay, Bool.and_eq_true, decide_eq_true_iff, decide_eq_true_iff, Config.sections]

end Sys2Proof.Safety
end

section
/-! The transport's replies to an offer (chapter 6.5). -/

namespace Sys2Proof.Safety

set_option Elab.async false

open Sys2Proof.Machine

/-! ## BAY_ACCEPT (R123) -/

theorem bayAccepted_of_noBay {b : Nat} (s : State) (outside : b < 1 ∨ 72 < b) : bayAccepted b s = s := by
  have no : isBay b = false := Bool.eq_false_iff.mpr fun bay => by
    obtain ⟨low, high⟩ := (isBay_iff b).mp bay
    omega
  simp [bayAccepted, no]

theorem bayAccepted_of_offered {b r left : Nat} {q : BayRequest} {s : State} (bay : isBay b = true)
    (found : requestOf b s = some (r, q)) (offered : q.phase = .offered left) :
    bayAccepted b s = setRequest r { q with phase := .accepted s.rvm.marks.bayTimeout } s := by
  simp [bayAccepted, bay, found, offered]

theorem bayAccepted_of_accepted {b r left : Nat} {q : BayRequest} {s : State} (bay : isBay b = true)
    (found : requestOf b s = some (r, q)) (accepted : q.phase = .accepted left) : bayAccepted b s = s := by
  simp [bayAccepted, bay, found, accepted]

/-- An accept that comes late is met by BAY_WITHDRAW. -/
theorem bayAccepted_of_late {b : Nat} {s : State} (bay : isBay b = true)
    (late : requestOf b s = none
      ∨ ∃ r q, requestOf b s = some (r, q) ∧ (q.phase = .waiting ∨ ∃ left, q.phase = .refusedWait left)) :
    bayAccepted b s = placeTold .rt (.bayWithdraw b) s := by
  obtain absent | ⟨r, q, found, waiting | ⟨left, refused⟩⟩ := late
  · simp [bayAccepted, bay, absent]
  · simp [bayAccepted, bay, found, waiting]
  · simp [bayAccepted, bay, found, refused]

/-- A BAY_ACCEPT at the head of the receive queue acts at the roving monitor, and is handed on. -/
theorem exec_bayAccept {b : Nat} {seq : Byte} {rest : List RxFrame} {s : State}
    (head : s.slc.rx = { agent := .rt, msg := .bayAccept b, seq := seq } :: rest) :
    exec .bayAccept s = .next (handedOn rest (bayAccepted b s)) :=
  finish_deliver head rfl

/-- Settles O37: the request's phase decides; a late accept is met by BAY_WITHDRAW, with what the test of the owner told of
a frame that begins sends after it. -/
theorem bayAcceptActsByItsRequest : Obligations.BayAcceptActsByItsRequest := by
  intro b seq rest s head
  have after := handedOn_kept rest (bayAccepted b s)
  refine ⟨handedOn rest (bayAccepted b s), exec_bayAccept head, ?_, fun low high => ?_, fun outside => ?_⟩
  · exact handedOn_left rest ((bayAccepted_kept b s).same .serviceTable (by decide))
  · have bay : isBay b = true := (isBay_iff b).mpr ⟨low, high⟩
    refine ⟨fun r q left found offered => ?_, fun r q left found accepted => ?_, fun late => ?_⟩
    · rw [bayAccepted_of_offered bay found offered] at after ⊢
      exact ⟨(jobsOf_handedOn ..).trans (jobsOf_setRequest ..), (setRequest_kept ..).mono.trans after.mono⟩
    · rw [bayAccepted_of_accepted bay found accepted] at after ⊢
      exact after
    · rw [bayAccepted_of_late bay late] at after ⊢
      refine ⟨fun quiet => ?_, fun room => ?_, (placeTold_kept ..).mono.trans after.mono⟩
      · rw [placeTold_of_quiet _ quiet] at after ⊢
        exact ⟨(place_placed ..).handedOn rest, (place_kept ..).mono.trans after.mono⟩
      · rw [outgoing_handedOn]
        exact outgoing_placeTold _ room
  · rw [bayAccepted_of_noBay s outside] at after ⊢
    exact after

end Sys2Proof.Safety
end
